-- ==== Sys2Proof/Word.lean ====
section
/-! DEFINITION. Words of the block: bytes, 16-bit payloads, 32-bit request words, and the two encodings (spec R7, R9, R60). -/

namespace Sys2Proof

/-- A byte: 8 bits (R9). -/
abbrev Byte := BitVec 8

/-- A 16-bit payload pattern (R7, R10). -/
abbrev Half := BitVec 16

/-- A request word `W`: 32 bits (R62). -/
abbrev Word := BitVec 32

/-- A parameter code: 5 bits, 0 to 31 (R7). -/
abbrev Code := BitVec 5

/-- The operand `hi`: the control byte's bits 7 and 6 (R61). -/
abbrev Hi := BitVec 2

/-- The payload width of a reply: 0, 1 or 2 bytes (R7, C5). -/
abbrev PayloadWidth := Fin 3

/-- The length of a reply frame, `1 + payload_width`: 1, 2 or 3 bytes (R7, R68). -/
def replyFrameLength (w : PayloadWidth) : Nat := 1 + w.val

/-- The two encodings the spec fixes (R60): a request word, and a command frame on the wire (the control byte first,
R42). -/
inductive Encoding where
  /-- A 32-bit request word (R62). -/
  | word (w : Word)
  /-- A command frame, its bytes in wire order (R11). -/
  | frame (bs : List Byte)
  deriving DecidableEq, Repr

end Sys2Proof
end

