-- ==== Sys2Proof/Machine/Operands.lean ====
section
/-! DEFINITION. Operand forms: the fields of the request word (R62, R64), of the control byte (R61) and of a payload
(R41), and putting them together again. -/

namespace Sys2Proof.Machine

/-- `W[3:0]`, the operation number (R62). -/
def opField (w : Word) : BitVec 4 := w.extractLsb' 0 4

/-- `W[8:4]`, the parameter code (R64). -/
def codeField (w : Word) : Code := w.extractLsb' 4 5

/-- `W[10:9]`, the operand `hi` (R64). -/
def hiField (w : Word) : Hi := w.extractLsb' 9 2

/-- `W[15:11]`, reserved: must be 0 for every operation (R62). -/
def reservedField (w : Word) : BitVec 5 := w.extractLsb' 11 5

/-- `W[31:16]`, the 16-bit immediate (R64). -/
def imm16Field (w : Word) : Half := w.extractLsb' 16 16

/-- `W[23:16]`: `cmd` of the decode operations, `mask` of FAULT.UNPACK (R62, R64). -/
def cmdField (w : Word) : Byte := w.extractLsb' 16 8

/-- `W[31:24]`: must be 0 where `W[23:16]` is an 8-bit operand (R62). -/
def topField (w : Word) : Byte := w.extractLsb' 24 8

/-- A request word from its fields, the reserved bits 0 (R62). -/
def packWord (op : BitVec 4) (code : Code) (hi : Hi) (imm16 : Half) : Word :=
  imm16 ++ (0#5 ++ (hi ++ (code ++ op)))

/-- A byte in the low half of the immediate, 0 above it (R62: `cmd` and `mask` are `imm16[7:0]`). -/
def immOfByte (b : Byte) : Half := 0#8 ++ b

/-- The control byte `{hi[1:0], dir, code[4:0]}` (R61). -/
def controlByte (hi : Hi) (dir : BitVec 1) (code : Code) : Byte := hi ++ (dir ++ code)

/-- Bits 4 to 0 of a control byte: the parameter code (R61). -/
def ctrlCode (c : Byte) : Code := c.extractLsb' 0 5

/-- Bit 5 of a control byte: 1 for a write, 0 for a read (R61). -/
def ctrlDir (c : Byte) : BitVec 1 := c.extractLsb' 5 1

/-- Bits 7 and 6 of a control byte: remote and run (R61). -/
def ctrlHi (c : Byte) : Hi := c.extractLsb' 6 2

/-- The payload byte that goes first on the wire: bits 7 to 0 (R41). -/
def lowByte (v : Half) : Byte := v.extractLsb' 0 8

/-- The payload byte that goes second: bits 15 to 8 (R41). -/
def highByte (v : Half) : Byte := v.extractLsb' 8 8

/-- `le16(lo, hi)`, the pattern `{hi, lo}` (R11, R41). -/
def le16 (lo hi : Byte) : Half := hi ++ lo

/-- `sint16(b)`: the pattern read as two's complement (R10). -/
def sint16 (b : Half) : Int := b.toInt

/-- `R[k]` of a reply (R11). It is read only below the reply's length (R23). -/
def replyByte (r : List Byte) (k : Nat) : Byte := r.getD k 0#8

/-- The 16-bit payload of a reply: `le16(R[1], R[2])` (R121). -/
def replyPayload16 (r : List Byte) : Half := le16 (replyByte r 1) (replyByte r 2)

/-- The 8-bit payload of a reply: `R[1]` (R121). -/
def replyPayload8 (r : List Byte) : Byte := replyByte r 1

/-- The reply port as hardware has it (R23): the count of `RLEN_W` bits and the first three bytes. -/
structure ReplyPort where
  len : Nat
  b0 : Byte
  b1 : Byte
  b2 : Byte
  deriving DecidableEq, Repr

/-- A reply on the hardware port (R23, D5): the count saturates at its largest value, and a byte at or above the
length, which is never read, holds whatever `idle` says. -/
def replyPort (rlenW : Nat) (idle : Byte) (r : List Byte) : ReplyPort :=
  { len := min r.length (2 ^ rlenW - 1), b0 := r.getD 0 idle, b1 := r.getD 1 idle, b2 := r.getD 2 idle }

end Sys2Proof.Machine
end

