-- ==== Sys2Proof/Config.lean ====
section
/-! DEFINITION. The named parameters of R8: constants of one machine or of the host that drives it, which the spec leaves
open (log entry 9), and what hardware shows on `out` before the first operation (R240, log entry 16). They have no body:
nothing can be proved of their values. -/

namespace Sys2Proof

/-- The value kinds of a parameter (R69). -/
inductive ValueKind where
  | scaledTemperature
  | rawByte
  | faultBitmap
  deriving DecidableEq, Repr, Inhabited

/-- What `PARAM_INFO` gives for a code the source does not document: its value kind and its payload width, 0, 1 or 2
bytes (R7, R8, R70, D22). -/
structure ParamInfo where
  kind : ValueKind
  payloadWidth : PayloadWidth
  deriving DecidableEq, Repr, Inhabited

/-- How far `RLEN_W` goes beyond the 3 bits that R8 asks for at least. -/
opaque Config.rlenExtra : Nat

/-- `RLEN_W`, the width of the reply-length count on the reply port: at least 3 bits (R8, D5). -/
def Config.rlenW : Nat := 3 + Config.rlenExtra

/-- `WAIT_TIME`, the host's minimum spacing between exchanges (R8, R242, D20). No rule of the block reads it. -/
opaque Config.waitTime : Nat

/-- The payload width of the reply to an alternate control byte, which the spec leaves open (D21). -/
opaque Config.altPayloadWidth : Byte → PayloadWidth

/-- `ALT_REPLY_LEN`, the reply length of an alternate control byte: 1, 2 or 3, as for every reply frame (R7, R8, R71,
D21). -/
def Config.altReplyLen (ctrl : Byte) : Nat := replyFrameLength (Config.altPayloadWidth ctrl)

/-- `PARAM_INFO`, the value kind and payload width of a parameter code the source does not document (R8, R70, D22). -/
opaque Config.paramInfo : Code → ParamInfo

/-- The result bundle as a hardware implementation shows it, every field a pattern of its width (R24, R25). -/
structure HardwareOut where
  st : BitVec 2
  flen : BitVec 2
  F0 : Byte
  F1 : Byte
  F2 : Byte
  v16 : Half
  v8 : Byte
  neg : BitVec 1
  whole : BitVec 12
  tenths : BitVec 4
  named : BitVec 5
  unnamed : Byte
  nofault : BitVec 1
  count : BitVec 4
  deriving DecidableEq, Repr, Inhabited

/-- What hardware shows on `out` before the first operation: any value, which must not be read (R240, I8). -/
opaque Config.powerUpOut : HardwareOut

end Sys2Proof
end

