-- ==== Sys2Proof/Machine/Tables.lean ====
section
/-! DEFINITION. The constant tables of the block's definition (R27): the opcode table (R76), the parameter-code table
(R70), the documented control bytes (R71) and the fault positions (R160). -/

namespace Sys2Proof.Machine

/-- A row of format W32 of the opcode table: a word is the row's operation exactly when its bits under `mask` are
`matchBits` (R76). -/
structure OpcodeRow where
  mnemonic : String
  matchBits : Word
  mask : Word
  deriving DecidableEq, Repr

/-- `w & mask = match` (R76). -/
def rowMatches (row : OpcodeRow) (w : Word) : Bool := w &&& row.mask == row.matchBits

/-- The eight W32 rows, letter for letter from spec/opcode_table.json (R76). -/
def opcodeRows : List OpcodeRow :=
  [ ⟨"ENC.RD", 0x00000001#32, 0xFFFFF80F#32⟩,
    ⟨"ENC.WR16", 0x00000002#32, 0x0000F80F#32⟩,
    ⟨"DEC.R16", 0x00000003#32, 0xFF00FFFF#32⟩,
    ⟨"DEC.R8", 0x00000004#32, 0xFF00FFFF#32⟩,
    ⟨"DEC.ACK", 0x00000005#32, 0xFF00FFFF#32⟩,
    ⟨"TEMP.DEC", 0x00000006#32, 0x0000FFFF#32⟩,
    ⟨"TEMP.ENC", 0x00000007#32, 0x0000FFFF#32⟩,
    ⟨"FAULT.UNPACK", 0x00000008#32, 0xFF00FFFF#32⟩ ]

/-- A row of format CTRL8: the same for a wire control byte (R76). -/
structure WireRow where
  mnemonic : String
  matchBits : Byte
  mask : Byte
  deriving DecidableEq, Repr

/-- `ctrl & mask = match` (R76). -/
def wireRowMatches (row : WireRow) (ctrl : Byte) : Bool := ctrl &&& row.mask == row.matchBits

/-- The two CTRL8 rows, `hh0ccccc` and `hh1ccccc` (R76). -/
def wireRows : List WireRow :=
  [ ⟨"WIRE.READ", 0x00#8, 0x20#8⟩, ⟨"WIRE.WRITE16", 0x20#8, 0x20#8⟩ ]

/-- The documented parameters (R70). -/
inductive ParamName where
  | setPoint
  | lowLimit
  | highLimit
  | faults
  | actualTemperature
  deriving DecidableEq, Repr

/-- A row of the parameter-code table (R70). The last three fields are `none` where the table has no entry: the name
and the offered directions of a code that is not documented. -/
structure ParamRow where
  name : Option ParamName
  kind : ValueKind
  payloadWidth : PayloadWidth
  readOffered : Option Bool
  writeOffered : Option Bool
  deriving DecidableEq, Repr

/-- The parameter-code table (R70). Codes 0, 2 to 5 and 10 to 31 are not documented: `PARAM_INFO` gives their kind and
width. -/
def paramTable (code : Code) : ParamRow :=
  if code = 1#5 then ⟨some .setPoint, .scaledTemperature, 2, some true, some true⟩
  else if code = 6#5 then ⟨some .lowLimit, .scaledTemperature, 2, some true, some true⟩
  else if code = 7#5 then ⟨some .highLimit, .scaledTemperature, 2, some true, some true⟩
  else if code = 8#5 then ⟨some .faults, .faultBitmap, 1, some true, some false⟩
  else if code = 9#5 then ⟨some .actualTemperature, .scaledTemperature, 2, some true, some false⟩
  else ⟨none, (Config.paramInfo code).kind, (Config.paramInfo code).payloadWidth, none, none⟩

/-- The decode operations a reply can be given to (R71). -/
inductive ReplyOp where
  | r16
  | r8
  | ack
  deriving DecidableEq, Repr

/-- The payload width each decode operation reads (R45, R120). -/
def ReplyOp.payloadWidth : ReplyOp → PayloadWidth
  | .r16 => 2
  | .r8 => 1
  | .ack => 0

/-- The reply length each decode operation expects: 3, 2 or 1 (R45, R68, R120). -/
def replyLength (d : ReplyOp) : Nat := replyFrameLength d.payloadWidth

/-- A row of the documented control bytes (R71): the byte, the length of its command frame and the decode operation
its reply is given to; the alternate bytes leave that to the host (`none`). -/
structure ControlRow where
  ctrl : Byte
  frameLength : Nat
  decodeWith : Option ReplyOp
  deriving DecidableEq, Repr

/-- The documented control bytes (R71). -/
def controlTable : List ControlRow :=
  [ ⟨0x41#8, 1, some .r16⟩, ⟨0x61#8, 3, some .ack⟩, ⟨0x46#8, 1, some .r16⟩, ⟨0x66#8, 3, some .ack⟩,
    ⟨0x47#8, 1, some .r16⟩, ⟨0x67#8, 3, some .ack⟩, ⟨0x48#8, 1, some .r8⟩, ⟨0x49#8, 1, some .r16⟩,
    ⟨0xC6#8, 1, none⟩, ⟨0xC7#8, 1, none⟩, ⟨0xE6#8, 3, none⟩, ⟨0xE7#8, 3, none⟩ ]

/-- The reply length a row of the table gives: that of its decode operation, or `ALT_REPLY_LEN` (R71, D21). -/
def expectedReplyLength (row : ControlRow) : Nat :=
  match row.decodeWith with
  | some d => replyLength d
  | none => Config.altReplyLen row.ctrl

/-- The kinds of fault (R160). -/
inductive FaultKind where
  | tankLevelLow
  | tempAboveAlarm
  | rtdFault
  | pumpFault
  | tempBelowAlarm
  | unnamed
  deriving DecidableEq, Repr

/-- The fault-position table (R160): the kind of the fault at bit `p` of the mask. -/
def faultKind (p : Nat) : FaultKind :=
  if p = 0 then .tankLevelLow
  else if p = 2 then .tempAboveAlarm
  else if p = 4 then .rtdFault
  else if p = 5 then .pumpFault
  else if p = 7 then .tempBelowAlarm
  else .unnamed

/-- The host's display string of a kind: the §8 spelling where the source gives one, §3's otherwise (D24). An unnamed
fault is reported by its position. -/
def faultDisplay : FaultKind → Option String
  | .tankLevelLow => some "Tank Level Low"
  | .tempAboveAlarm => some "temperature above alarm"
  | .rtdFault => some "RTD fault"
  | .pumpFault => some "Pump Fault"
  | .tempBelowAlarm => some "Temperature below alarm range"
  | .unnamed => none

end Sys2Proof.Machine
end

