-- ==== Sys2Proof/Syntax.lean ====
section
/-! DEFINITION. The operations: one constructor per row of spec/opcode_table.json (R63, R76). Each operand has the width
the spec gives its field, so that a term cannot hold a value its encoding does not admit (R62, R64). -/

namespace Sys2Proof

/-- The eight operations of the request word (R63) and the two wire rows (format CTRL8, R76). Operands stand in the
order of the assembler syntax (R73). -/
inductive Instr where
  /-- ENC.RD code, hi (R100). -/
  | encRd (code : Code) (hi : Hi)
  /-- ENC.WR16 code, imm16, hi (R101). -/
  | encWr16 (code : Code) (imm16 : Half) (hi : Hi)
  /-- DEC.R16 cmd (R122). -/
  | decR16 (cmd : Byte)
  /-- DEC.R8 cmd (R123). -/
  | decR8 (cmd : Byte)
  /-- DEC.ACK cmd (R124). -/
  | decAck (cmd : Byte)
  /-- TEMP.DEC imm16 (R142). -/
  | tempDec (imm16 : Half)
  /-- TEMP.ENC imm16 (R143). -/
  | tempEnc (imm16 : Half)
  /-- FAULT.UNPACK mask (R162). -/
  | faultUnpack (mask : Byte)
  /-- WIRE.READ: the one-byte command frame whose control byte is hh0ccccc (R61, R67, R76). -/
  | wireRead (code : Code) (hi : Hi)
  /-- WIRE.WRITE16: the three-byte command frame whose control byte is hh1ccccc, with the 16-bit payload that follows
  it on the wire (R61, R41, R67, R76). -/
  | wireWrite16 (code : Code) (payload : Half) (hi : Hi)
  deriving DecidableEq, Repr

end Sys2Proof
end

