-- ==== Sys2Proof/WellFormed.lean ====
section
/-! DEFINITION. Well-formedness: of an instruction (its types carry every width, so nothing is left to check) and of an
encoding, a request word or a command frame as it is presented (R62, R65, R67, R76). -/

namespace Sys2Proof

/-- Every operand of an `Instr` has the width of its field (R62, R64), and no operation checks a code, `hi` or an
immediate further (R66): each term is well-formed. -/
def Instr.wellFormed : Instr → Bool
  | .encRd _ _ => true
  | .encWr16 _ _ _ => true
  | .decR16 _ => true
  | .decR8 _ => true
  | .decAck _ => true
  | .tempDec _ => true
  | .tempEnc _ => true
  | .faultUnpack _ => true
  | .wireRead _ _ => true
  | .wireWrite16 _ _ _ => true

/-- A request word is well-formed when it matches a W32 row of the opcode table (R76); a command frame when its length
is the one its direction bit gives: 1 byte for a read, 3 for a 16-bit write (R67). -/
def Encoding.wellFormed : Encoding → Bool
  | .word w => Machine.opcodeRows.any fun row => Machine.rowMatches row w
  | .frame [c] => Machine.ctrlDir c == 0#1
  | .frame [c, _, _] => Machine.ctrlDir c == 1#1
  | .frame _ => false

end Sys2Proof
end

