-- ==== Sys2Proof/Decode.lean ====
section
/-! DEFINITION. The decoder, total on every request word and every byte list, rejecting by name; the encoder after it
(R61 to R65, R76). -/

namespace Sys2Proof

open Machine

/-- Why the decoder rejects an encoding. -/
inductive Reject where
  /-- `op` is 0x0 or 0x9 to 0xF (R202). -/
  | reservedOp (op : BitVec 4)
  /-- A 1 in a bit that R62 marks "must be 0" for this `op` (R65). -/
  | mustBeZero (op : BitVec 4)
  /-- The length of a byte list is not the one its direction bit gives a command frame (R67). -/
  | frameLength (n : Nat)
  deriving DecidableEq, Repr

/-- The operation if its must-be-zero bits are 0, and the rejection otherwise (R65). -/
def accept (zero : Bool) (op : BitVec 4) (i : Instr) : Except Reject Instr :=
  if zero then .ok i else .error (.mustBeZero op)

/-- `W[15:4] = 0` (R62): the code, `hi` and reserved fields of an operation that has none of them. -/
def lowClear (w : Word) : Bool := codeField w == 0#5 && hiField w == 0#2 && reservedField w == 0#5

/-- The operation a request word stands for (R62 to R65). -/
def decodeWord (w : Word) : Except Reject Instr :=
  let op := opField w
  if op = 0x1#4 then
    accept (reservedField w == 0#5 && imm16Field w == 0#16) op (.encRd (codeField w) (hiField w))
  else if op = 0x2#4 then
    accept (reservedField w == 0#5) op (.encWr16 (codeField w) (imm16Field w) (hiField w))
  else if op = 0x3#4 then accept (lowClear w && topField w == 0#8) op (.decR16 (cmdField w))
  else if op = 0x4#4 then accept (lowClear w && topField w == 0#8) op (.decR8 (cmdField w))
  else if op = 0x5#4 then accept (lowClear w && topField w == 0#8) op (.decAck (cmdField w))
  else if op = 0x6#4 then accept (lowClear w) op (.tempDec (imm16Field w))
  else if op = 0x7#4 then accept (lowClear w) op (.tempEnc (imm16Field w))
  else if op = 0x8#4 then accept (lowClear w && topField w == 0#8) op (.faultUnpack (cmdField w))
  else .error (.reservedOp op)

/-- The wire row a command frame stands for (R61, R67, R76): its direction bit gives the frame's length. -/
def decodeFrame (bs : List Byte) : Except Reject Instr :=
  match bs with
  | [c] =>
    if ctrlDir c = 0#1 then .ok (.wireRead (ctrlCode c) (ctrlHi c)) else .error (.frameLength 1)
  | [c, lo, hi] =>
    if ctrlDir c = 1#1 then .ok (.wireWrite16 (ctrlCode c) (le16 lo hi) (ctrlHi c)) else .error (.frameLength 3)
  | bs => .error (.frameLength bs.length)

/-- The decoder over both encodings (R60). -/
def decode : Encoding → Except Reject Instr
  | .word w => decodeWord w
  | .frame bs => decodeFrame bs

/-- The encoder: the request word of an operation (R62, R63), the command frame of a wire row (R61, R41, R67). -/
def encode : Instr → Encoding
  | .encRd code hi => .word (packWord 0x1#4 code hi 0#16)
  | .encWr16 code imm16 hi => .word (packWord 0x2#4 code hi imm16)
  | .decR16 cmd => .word (packWord 0x3#4 0#5 0#2 (immOfByte cmd))
  | .decR8 cmd => .word (packWord 0x4#4 0#5 0#2 (immOfByte cmd))
  | .decAck cmd => .word (packWord 0x5#4 0#5 0#2 (immOfByte cmd))
  | .tempDec imm16 => .word (packWord 0x6#4 0#5 0#2 imm16)
  | .tempEnc imm16 => .word (packWord 0x7#4 0#5 0#2 imm16)
  | .faultUnpack mask => .word (packWord 0x8#4 0#5 0#2 (immOfByte mask))
  | .wireRead code hi => .frame [controlByte hi 0#1 code]
  | .wireWrite16 code payload hi => .frame [controlByte hi 1#1 code, lowByte payload, highByte payload]

/-- The encoding that `nbits` bits of an opcode-table row stand for, every bit above them 0: a request word for the
32-bit rows, and for the CTRL8 rows the command frame whose first byte is bits 7 to 0, with the two payload bytes above
it where the direction bit asks for them (R67, R76). -/
def tableEncoding (nbits w : Nat) : Encoding :=
  if nbits = 32 then .word (BitVec.ofNat 32 w)
  else
    let v := w % 2 ^ nbits
    let c : Byte := BitVec.ofNat 8 v
    if ctrlDir c = 0#1 then .frame [c]
    else .frame [c, BitVec.ofNat 8 (v / 2 ^ 8), BitVec.ofNat 8 (v / 2 ^ 16)]

/-- What the decoder reads from a row's bits, numbered as spec/opcode_table.json numbers them. -/
def decodeTableWord (nbits w : Nat) : Option Instr := (decode (tableEncoding nbits w)).toOption

end Sys2Proof
end

