-- ==== Sys2Proof/Machine/State.lean ====
section
/-! DEFINITION. The machine's state: the three ports of R23 and the host's list of operations to present. The block has
no register, no memory and no program counter (R20, R21, R22, R40). -/

namespace Sys2Proof.Machine

/-- Why a step stops with a fault. No operation of the block raises one: its errors are statuses (R200, R203). -/
inductive Fault where
  /-- Raised by `step` when a byte list presented as a command frame has not the length its direction bit gives (R67):
  it is no command frame. Safe: the model stops and nothing can be proved of what would follow (log entry 3). -/
  | malformedFrame
  deriving DecidableEq, Repr

/-- Why a step is refused. -/
inductive Refusal where
  /-- An operation that has no meaning in the model. No arm of `exec` raises it. Safe. -/
  | notModelled (mnemonic : String)
  deriving DecidableEq, Repr

/-- The status of an operation (R200). -/
inductive Status where
  | ok
  | lengthMismatch
  | codeMismatch
  | illegalOp
  deriving DecidableEq, Repr

/-- The result bundle (R24). A field that is `none` is undriven: it carries no value (R25). -/
structure Out where
  /-- Status, 2 bits as R200 numbers them. -/
  st : Option Status
  /-- Command frame length in bytes, 1 or 3. -/
  flen : Option (BitVec 2)
  /-- Command frame bytes in wire order. -/
  F0 : Option Byte
  F1 : Option Byte
  F2 : Option Byte
  /-- 16-bit value. -/
  v16 : Option Half
  /-- 8-bit value. -/
  v8 : Option Byte
  /-- 1 if the temperature is below zero. -/
  neg : Option (BitVec 1)
  /-- Whole degrees of the magnitude. -/
  whole : Option (BitVec 12)
  /-- Tenths digit of the magnitude. -/
  tenths : Option (BitVec 4)
  /-- One flag per named fault (R161). -/
  named : Option (BitVec 5)
  /-- Mask bits at positions that have no name (R161). -/
  unnamed : Option Byte
  /-- 1 if and only if the mask is zero. -/
  nofault : Option (BitVec 1)
  /-- Number of set mask bits. -/
  count : Option (BitVec 4)
  deriving DecidableEq, Repr

/-- The bundle on which nothing is driven (R25). -/
def Out.undriven : Out :=
  { st := none, flen := none, F0 := none, F1 := none, F2 := none, v16 := none, v8 := none, neg := none, whole := none,
    tenths := none, named := none, unnamed := none, nofault := none, count := none }

/-- What the host presents at once: an encoding and the reply bytes that go with it (R21, R23). -/
structure Presentation where
  what : Encoding
  reply : List Byte
  deriving DecidableEq, Repr

/-- The state: what stands on the ports `W`, `R` and `out` (R23), and the operations the host has yet to present, in
program order (R21; the model's own field, log entry 4). -/
structure State where
  W : Word
  R : List Byte
  out : Out
  todo : List Presentation
  deriving DecidableEq, Repr

/-- After power-up, before the first operation (R240): nothing is driven on `out` (log entry 5), the input ports hold
the model's zero values (log entry 6), and nothing is presented. -/
def State.reset : State := { W := 0#32, R := [], out := Out.undriven, todo := [] }

end Sys2Proof.Machine
end

