-- ==== Sys2Proof/Machine/Flags.lean ====
section
/-! DEFINITION. The status, the block's only flag-like state (R26, R200), the reply check that computes it (R120, R201),
and the one-bit and count fields of the result bundle. -/

namespace Sys2Proof.Machine

/-- The 2-bit value of `st` (R200). -/
def statusBits : Status → BitVec 2
  | .ok => 0#2
  | .lengthMismatch => 1#2
  | .codeMismatch => 2#2
  | .illegalOp => 3#2

/-- The reply check: the length first, then the echo on all 8 bits (R120, R121). -/
def check (n : Nat) (cmd : Byte) (r : List Byte) : Status :=
  if r.length ≠ n then .lengthMismatch
  else if replyByte r 0 ≠ cmd then .codeMismatch
  else .ok

/-- The same check on the hardware form of the reply port (R23, D5). -/
def checkPort (n : Nat) (cmd : Byte) (p : ReplyPort) : Status :=
  if p.len ≠ n then .lengthMismatch
  else if p.b0 ≠ cmd then .codeMismatch
  else .ok

/-- `neg`: 1 if the temperature is below zero (R142). -/
def negFlag (t : Int) : BitVec 1 := if t < 0 then 1#1 else 0#1

/-- `nofault`: 1 if and only if the mask is zero (R162, R163). -/
def nofaultFlag (m : Byte) : BitVec 1 := if m = 0x00#8 then 1#1 else 0#1

/-- Bit `p` of a mask as a number. -/
def maskBit (m : Byte) (p : Nat) : Nat := if m.getLsbD p then 1 else 0

/-- `count`: `m[0] + m[1] + ... + m[7]` (R162). -/
def countField (m : Byte) : BitVec 4 :=
  BitVec.ofNat 4 (maskBit m 0 + maskBit m 1 + maskBit m 2 + maskBit m 3 + maskBit m 4 + maskBit m 5 + maskBit m 6
    + maskBit m 7)

end Sys2Proof.Machine
end

