-- ==== Sys2Proof/Machine/Ops.lean ====
section
/-! DEFINITION. The operations the meanings share: driving the result bundle (R24), ending with an error status (R12,
R203, the block's whole error mechanism: there is no trap and no return from one, R203, R204), the reply operations'
common part (R120), and presenting an operation on the ports (R21, R23). -/

namespace Sys2Proof.Machine

/-- An operation writes its result bundle and nothing else (R20). -/
def drive (o : Out) (s : State) : State := { s with out := o }

/-- A bundle that drives `st` alone: of an error (R25), and of DEC.ACK (R124). -/
def statusOnly (st : Status) : Out := { Out.undriven with st := some st }

/-- `raise <Status>`: the operation ends with that status and drives no value field (R12). -/
def raise (st : Status) (s : State) : State := drive (statusOnly st) s

/-- The bundle of a read command frame (R100). -/
def readFrameOut (hi : Hi) (code : Code) : Out :=
  { Out.undriven with st := some .ok, flen := some 1#2, F0 := some (controlByte hi 0#1 code) }

/-- The bundle of a 16-bit write command frame, the low payload byte first (R101). -/
def writeFrameOut (hi : Hi) (code : Code) (v : Half) : Out :=
  { Out.undriven with
    st := some .ok, flen := some 3#2, F0 := some (controlByte hi 1#1 code), F1 := some (lowByte v),
    F2 := some (highByte v) }

/-- The bundle of an operation that drives `st` and a 16-bit value (R122, R143). -/
def value16Out (v : Half) : Out := { Out.undriven with st := some .ok, v16 := some v }

/-- The bundle of an operation that drives `st` and an 8-bit value (R123). -/
def value8Out (v : Byte) : Out := { Out.undriven with st := some .ok, v8 := some v }

/-- A decode operation: the reply check for length `n`, then the bundle `o` if it passes (R120). -/
def replyOutcome (n : Nat) (cmd : Byte) (o : Out) (s : State) : Host.Outcome State Fault Refusal :=
  match check n cmd s.R with
  | .ok => .next (drive o s)
  | .lengthMismatch => .next (raise .lengthMismatch s)
  | .codeMismatch => .next (raise .codeMismatch s)
  | .illegalOp => .next (raise .illegalOp s)

/-- The host presents an operation: the request word and the reply come to their ports (R21, R23). A command frame is no
request word and leaves `W` as it is. -/
def present (p : Presentation) (rest : List Presentation) (s : State) : State :=
  match p.what with
  | .word w => { s with W := w, R := p.reply, todo := rest }
  | .frame _ => { s with R := p.reply, todo := rest }

/-- An operation the decoder rejects. An illegal request word ends with ILLEGAL_OP and drives no other field (R65, R202,
log entry 1); a byte list that is no command frame is a fault (R67, log entry 3). -/
def rejected (e : Encoding) (s : State) : Host.Outcome State Fault Refusal :=
  match e with
  | .word _ => .next (raise .illegalOp s)
  | .frame _ => .fault .malformedFrame

/-- The command frame that a result bundle carries: `[F0 .. F(flen-1)]` (R24, R74). -/
def frameOf (o : Out) : Option (List Byte) :=
  match o.flen, o.F0, o.F1, o.F2 with
  | some n, some b0, b1, b2 =>
    if n = 1#2 then some [b0]
    else
      match b1, b2 with
      | some b1, some b2 => if n = 3#2 then some [b0, b1, b2] else none
      | _, _ => none
  | none, _, _, _ => none
  | some _, none, _, _ => none

/-- The hardware view of a bundle (R200). After an operation, a field it does not drive reads as zero (R25). Before the
first operation, when not even `st` is driven, `out` is unspecified (R240, I8), and the view is the free value
`Config.powerUpOut` (log entry 16). No rule reads either. -/
def hardwareOut (o : Out) : HardwareOut :=
  match o.st with
  | none => Config.powerUpOut
  | some st =>
    { st := statusBits st, flen := o.flen.getD 0, F0 := o.F0.getD 0, F1 := o.F1.getD 0, F2 := o.F2.getD 0,
      v16 := o.v16.getD 0, v8 := o.v8.getD 0, neg := o.neg.getD 0, whole := o.whole.getD 0, tenths := o.tenths.getD 0,
      named := o.named.getD 0, unnamed := o.unnamed.getD 0, nofault := o.nofault.getD 0, count := o.count.getD 0 }

end Sys2Proof.Machine
end

