-- ==== Sys2Proof/Machine/FaultUnpack.lean ====
section
/-! DEFINITION. Fault-bitmap unpack operation (43_fault_unpack.md). -/

namespace Sys2Proof.Machine

/-- `named`: `{m[7], m[5], m[4], m[2], m[0]}` (R161, R162). -/
def namedField (m : Byte) : BitVec 5 :=
  m.extractLsb' 7 1 ++ (m.extractLsb' 5 1 ++ (m.extractLsb' 4 1 ++ (m.extractLsb' 2 1 ++ m.extractLsb' 0 1)))

/-- `unnamed`: bits 1, 3 and 6 in place (R161, R162). -/
def unnamedField (m : Byte) : Byte := m &&& 0b01001010#8

/-- The mask rebuilt from the two fields, each named flag back at its position (R161). -/
def rebuildMask (named : BitVec 5) (unnamed : Byte) : Byte :=
  (named.extractLsb' 4 1 ++ (0#1 ++ (named.extractLsb' 3 1 ++ (named.extractLsb' 2 1 ++ (0#1 ++ (named.extractLsb' 1 1
    ++ (0#1 ++ named.extractLsb' 0 1))))))) ||| unnamed

/-- The structured fault set: the entry of every set position, in ascending order (R164). -/
def faultSet (m : Byte) : List (Nat × FaultKind) :=
  ([0, 1, 2, 3, 4, 5, 6, 7].filter fun p => m.getLsbD p).map fun p => (p, faultKind p)

/-- The bundle of FAULT.UNPACK (R162). -/
def faultOut (m : Byte) : Out :=
  { Out.undriven with
    st := some .ok, v8 := some m, named := some (namedField m), unnamed := some (unnamedField m),
    nofault := some (nofaultFlag m), count := some (countField m) }

/-- FAULT.UNPACK (R162). -/
def execFaultUnpack (mask : Byte) (s : State) : Host.Outcome State Fault Refusal :=
  .next (drive (faultOut mask) s)

end Sys2Proof.Machine
end

