-- ==== Sys2Proof/Machine/FrameDecode.lean ====
section
/-! DEFINITION. Reply decode operations (41_frame_decode.md). -/

namespace Sys2Proof.Machine

/-- DEC.R16 (R122). -/
def execDecR16 (cmd : Byte) (s : State) : Host.Outcome State Fault Refusal :=
  replyOutcome 3 cmd (value16Out (replyPayload16 s.R)) s

/-- DEC.R8 (R123). -/
def execDecR8 (cmd : Byte) (s : State) : Host.Outcome State Fault Refusal :=
  replyOutcome 2 cmd (value8Out (replyPayload8 s.R)) s

/-- DEC.ACK (R124). -/
def execDecAck (cmd : Byte) (s : State) : Host.Outcome State Fault Refusal :=
  replyOutcome 1 cmd (statusOnly .ok) s

end Sys2Proof.Machine
end

