-- ==== Sys2Proof/Machine/FrameEncode.lean ====
section
/-! DEFINITION. Frame encode operations (40_frame_encode.md). -/

namespace Sys2Proof.Machine

/-- ENC.RD (R100). It checks neither the code nor `hi` (R66). -/
def execEncRd (code : Code) (hi : Hi) (s : State) : Host.Outcome State Fault Refusal :=
  .next (drive (readFrameOut hi code) s)

/-- ENC.WR16 (R101): every 16-bit pattern goes through unchanged. -/
def execEncWr16 (code : Code) (imm16 : Half) (hi : Hi) (s : State) : Host.Outcome State Fault Refusal :=
  .next (drive (writeFrameOut hi code imm16) s)

end Sys2Proof.Machine
end

