-- ==== Sys2Proof/Machine/Temperature.lean ====
section
/-! DEFINITION. Temperature scaling operations (42_temperature.md). -/

namespace Sys2Proof.Machine

/-- The temperature a raw count stands for, in °C: exactly `T / 10` (R140). The block computes no such number (R141). -/
def celsius (b : Half) : Rat := (sint16 b : Rat) / 10

/-- The bundle of TEMP.DEC (R142): the deci-degree count, its sign, and the whole degrees and tenths of its magnitude. -/
def temperatureOut (b : Half) : Out :=
  { Out.undriven with
    st := some .ok, v16 := some b, neg := some (negFlag (sint16 b)),
    whole := some (BitVec.ofNat 12 ((sint16 b).natAbs / 10)),
    tenths := some (BitVec.ofNat 4 ((sint16 b).natAbs % 10)) }

/-- TEMP.DEC (R142). -/
def execTempDec (imm16 : Half) (s : State) : Host.Outcome State Fault Refusal :=
  .next (drive (temperatureOut imm16) s)

/-- TEMP.ENC (R143): no range check, no saturation, no clamp. -/
def execTempEnc (imm16 : Half) (s : State) : Host.Outcome State Fault Refusal :=
  .next (drive (value16Out imm16) s)

end Sys2Proof.Machine
end

