-- ==== Sys2Proof/Machine/Wire.lean ====
section
/-! DEFINITION. The two wire rows of the opcode table (format CTRL8, R76). They are no request words: each stands for the
command frame that the rule named in its row produces, and has that rule's result (log entry 2). -/

namespace Sys2Proof.Machine

/-- WIRE.READ: the command frame of R100, recovered from its control byte. -/
def execWireRead (code : Code) (hi : Hi) (s : State) : Host.Outcome State Fault Refusal :=
  .next (drive (readFrameOut hi code) s)

/-- WIRE.WRITE16: the command frame of R101, recovered from its control byte and payload. -/
def execWireWrite16 (code : Code) (payload : Half) (hi : Hi) (s : State) : Host.Outcome State Fault Refusal :=
  .next (drive (writeFrameOut hi code payload) s)

end Sys2Proof.Machine
end

