-- ==== Sys2Proof/Machine/Dispatch.lean ====
section
/-! DEFINITION. One arm per operation. -/

namespace Sys2Proof.Machine

def exec (i : Instr) (s : State) : Host.Outcome State Fault Refusal :=
  match i with
  | .encRd code hi => Sys2Proof.Machine.execEncRd code hi s
  | .encWr16 code imm16 hi => Sys2Proof.Machine.execEncWr16 code imm16 hi s
  | .decR16 cmd => Sys2Proof.Machine.execDecR16 cmd s
  | .decR8 cmd => Sys2Proof.Machine.execDecR8 cmd s
  | .decAck cmd => Sys2Proof.Machine.execDecAck cmd s
  | .tempDec imm16 => Sys2Proof.Machine.execTempDec imm16 s
  | .tempEnc imm16 => Sys2Proof.Machine.execTempEnc imm16 s
  | .faultUnpack mask => Sys2Proof.Machine.execFaultUnpack mask s
  | .wireRead code hi => Sys2Proof.Machine.execWireRead code hi s
  | .wireWrite16 code payload hi => Sys2Proof.Machine.execWireWrite16 code payload hi s

end Sys2Proof.Machine
end

