-- ==== Sys2Proof/Machine/Step.lean ====
section
/-! DEFINITION. One step: the host presents its next operation and the block gives the result in the same step (R21). -/

namespace Sys2Proof.Machine

/-- The result of an encoding that stands on the ports: decoded and executed, or rejected. -/
def operate (e : Encoding) (s : State) : Host.Outcome State Fault Refusal :=
  match decode e with
  | .ok i => exec i s
  | .error _ => rejected e s

/-- One step. With nothing presented the ports stay as they are, and `out` stays the result of the last operation
(R240, log entry 4). -/
def step (s : State) : Host.Outcome State Fault Refusal :=
  match s.todo with
  | [] => .next s
  | p :: rest => operate p.what (present p rest s)

/-- The state in which the very next step runs the instruction of an opcode-table row: it is the next thing the host
presents, with the reply that stands on the reply port (log entry 13). -/
def State.withFetchWord (s : State) (nbits w : Nat) : State :=
  { s with todo := { what := tableEncoding nbits w, reply := s.R } :: s.todo }

end Sys2Proof.Machine
end

