-- ==== Sys2Proof/Machine/Accessor.lean ====
section
/-! DEFINITION. What drives the block, as far as the spec fixes it: the exchange notation (R74), the pseudo-operations
(R75), the exact read (R206, R244) and the host's duties (R242, R243). None of it is state of the block (R28): `Link`
holds a block and a record of the link beside it. -/

namespace Sys2Proof.Machine

/-- What the link gives the host in one exchange (log entry 11). -/
inductive LinkReply where
  /-- The bytes that arrive within the time limit. -/
  | bytes (bs : List Byte)
  /-- The transport fails. -/
  | broken
  deriving DecidableEq, Repr

/-- Errors of the host, never of the block (R206). -/
inductive HostError where
  /-- Fewer than `n` bytes arrived within the time limit, none among them. -/
  | timeout
  /-- The transport failed. -/
  | ioError
  /-- A step that needs a frame or a value no operation has given. No expansion of R75 comes to it. -/
  | nothingToSend
  deriving DecidableEq, Repr

/-- A block and the host's record of its link: the frame of the last encode operation, the frames sent (oldest first),
and what will arrive in each exchange to come. -/
structure Link where
  cfc : State
  lastFrame : Option (List Byte)
  sent : List (List Byte)
  incoming : List LinkReply
  deriving DecidableEq, Repr

/-- One step of an expansion (R75): an operation with its operands written out, an operation that takes its operand
from a field of the last result (`out.v16` or `out.v8`), or an exchange. -/
inductive HostStep where
  | issue (i : Instr)
  | encWr16Out (code : Code) (hi : Hi)
  | tempDecOut
  | faultUnpackOut
  | xchg (n : Nat)
  deriving DecidableEq, Repr

/-- The pseudo-operations (R75); `t` is a deci-degree count. -/
inductive Pseudo where
  | idQuery
  | rdSetpoint
  | wrSetpoint (t : Half)
  | rdActual
  | rdLowLimit
  | wrLowLimit (t : Half)
  | rdHighLimit
  | wrHighLimit (t : Half)
  | rdFaults
  deriving DecidableEq, Repr

/-- Read a temperature parameter: ENC.RD, XCHG 3, DEC.R16, TEMP.DEC out.v16 (R75). -/
def readTemperature (code : Code) (cmd : Byte) : List HostStep :=
  [.issue (.encRd code 0b01#2), .xchg 3, .issue (.decR16 cmd), .tempDecOut]

/-- Write a temperature parameter: TEMP.ENC, ENC.WR16 out.v16, XCHG 1, DEC.ACK (R75). -/
def writeTemperature (code : Code) (cmd : Byte) (t : Half) : List HostStep :=
  [.issue (.tempEnc t), .encWr16Out code 0b01#2, .xchg 1, .issue (.decAck cmd)]

/-- The expansions (R75). -/
def expand : Pseudo → List HostStep
  | .idQuery => [.issue (.encRd 1#5 0b01#2), .xchg 3, .issue (.decR16 0x41#8)]
  | .rdSetpoint => readTemperature 1#5 0x41#8
  | .wrSetpoint t => writeTemperature 1#5 0x61#8 t
  | .rdActual => readTemperature 9#5 0x49#8
  | .rdLowLimit => readTemperature 6#5 0x46#8
  | .wrLowLimit t => writeTemperature 6#5 0x66#8 t
  | .rdHighLimit => readTemperature 7#5 0x47#8
  | .wrHighLimit t => writeTemperature 7#5 0x67#8 t
  | .rdFaults => [.issue (.encRd 8#5 0b01#2), .xchg 2, .issue (.decR8 0x48#8), .faultUnpackOut]

/-- The outcome of an accessor (R75): it ran to its end, an operation ended with a status other than OK, the host
failed, or the machine stopped (no expansion comes to it). -/
inductive AccessorOutcome where
  | done (l : Link)
  | failed (st : Status) (l : Link)
  | hostFailed (e : HostError) (l : Link)
  | stopped
  deriving DecidableEq, Repr

/-- The host presents one operation with the reply on the reply port, and remembers the frame if the result is one
(R21, R74). A status other than OK ends the sequence (R75). -/
def issueOp (i : Instr) (l : Link) : AccessorOutcome :=
  match step { l.cfc with todo := { what := encode i, reply := l.cfc.R } :: l.cfc.todo } with
  | .next t =>
    let l' : Link := { l with cfc := t, lastFrame := (frameOf t.out).or l.lastFrame }
    match t.out.st with
    | some .ok => .done l'
    | some st => .failed st l'
    | none => .stopped
  | .fault _ => .stopped
  | .refused _ => .stopped

/-- `read_exact(n)`: the first `n` bytes, or a timeout if fewer arrive (R74, R206, R244). -/
def readExact (n : Nat) (bs : List Byte) : Option (List Byte) := if bs.length < n then none else some (bs.take n)

/-- What arrives in the next exchange: where the record holds nothing more, no byte does (log entry 11). -/
def nextAnswer : List LinkReply → LinkReply
  | [] => .bytes []
  | a :: _ => a

/-- `XCHG n`: the frame of the last encode operation goes to the link, then `n` bytes come to the reply port (R74). No or
too few bytes are a Timeout, a failed transport an IoError (R206). The
frame is recorded as sent however the exchange ends, with IoError too, where the spec does not say whether the write or
the read failed. An exchange that ends in Timeout or IoError leaves `R` as it was, the reply of an earlier exchange, and
drops the bytes of a short read. Both are the model's choices (log entry 11). -/
def exchange (n : Nat) (l : Link) : AccessorOutcome :=
  match l.lastFrame with
  | none => .hostFailed .nothingToSend l
  | some f =>
    let sent : Link := { l with sent := l.sent ++ [f], incoming := l.incoming.tail }
    match nextAnswer l.incoming with
    | .bytes bs =>
      match readExact n bs with
      | some r => .done { sent with cfc := { l.cfc with R := r } }
      | none => .hostFailed .timeout sent
    | .broken => .hostFailed .ioError sent

/-- One step of an expansion. -/
def hostStep (h : HostStep) (l : Link) : AccessorOutcome :=
  match h with
  | .issue i => issueOp i l
  | .encWr16Out code hi =>
    match l.cfc.out.v16 with
    | some v => issueOp (.encWr16 code v hi) l
    | none => .hostFailed .nothingToSend l
  | .tempDecOut =>
    match l.cfc.out.v16 with
    | some v => issueOp (.tempDec v) l
    | none => .hostFailed .nothingToSend l
  | .faultUnpackOut =>
    match l.cfc.out.v8 with
    | some m => issueOp (.faultUnpack m) l
    | none => .hostFailed .nothingToSend l
  | .xchg n => exchange n l

/-- A sequence of steps: the first that does not end OK ends it, and the rest is not issued (R75, R210). -/
def runSteps : List HostStep → Link → AccessorOutcome
  | [], l => .done l
  | h :: hs, l =>
    match hostStep h l with
    | .done l' => runSteps hs l'
    | .failed st l' => .failed st l'
    | .hostFailed e l' => .hostFailed e l'
    | .stopped => .stopped

/-- A typed accessor: its expansion, run (R75). -/
def runAccessor (p : Pseudo) (l : Link) : AccessorOutcome := runSteps (expand p) l

/-- The delay the host owes before an exchange when `elapsed` has passed since the last successful one (R242). -/
def spacingDelay (elapsed : Nat) : Nat := Config.waitTime - elapsed

/-- The host's pairing duty: the `cmd` of a decode operation is the first byte of the frame of the same exchange
(R243). -/
def paired (frame : List Byte) (cmd : Byte) : Bool := frame.head? == some cmd

end Sys2Proof.Machine
end

