-- ==== Sys2Proof/Machine/Assembler.lean ====
section
/-! DEFINITION. The assembler of R73: a source line to an operation and its request word. Lexical details that R73 leaves
open are log entry 10. -/

namespace Sys2Proof.Machine

/-- An operand as it is written: a signed decimal, a hexadecimal or a binary number (R73). -/
inductive AsmNumber where
  | decimal (n : Int)
  | hex (n : Nat)
  | binary (n : Nat)
  deriving DecidableEq, Repr

/-- A source line, an omitted `hi` being 0b01 (R73). -/
inductive AsmLine where
  | encRd (code hi : AsmNumber)
  | encWr16 (code imm hi : AsmNumber)
  | decR16 (cmd : AsmNumber)
  | decR8 (cmd : AsmNumber)
  | decAck (cmd : AsmNumber)
  | tempDec (imm : AsmNumber)
  | tempEnc (imm : AsmNumber)
  | faultUnpack (mask : AsmNumber)
  deriving DecidableEq, Repr

/-- Why a line gives no word (R73). -/
inductive AsmError where
  | unknownMnemonic
  | operandCount
  | badNumber
  | outOfRange
  deriving DecidableEq, Repr

/-- The value of an operand. -/
def asmValue : AsmNumber → Int
  | .decimal n => n
  | .hex n => n
  | .binary n => n

/-- An unsigned operand below `2 ^ width`: `code`, `hi`, `cmd`, `mask` (R73). -/
def asmUnsigned (width : Nat) (x : AsmNumber) : Except AsmError (BitVec width) :=
  if 0 ≤ asmValue x ∧ asmValue x < 2 ^ width then .ok (BitVec.ofInt width (asmValue x)) else .error .outOfRange

/-- An `imm`: a signed decimal in -32768..32767 or a 16-bit hex pattern (R73). -/
def asmImm (x : AsmNumber) : Except AsmError Half :=
  match x with
  | .decimal n => if -32768 ≤ n ∧ n ≤ 32767 then .ok (BitVec.ofInt 16 n) else .error .outOfRange
  | .hex n => if n ≤ 0xFFFF then .ok (BitVec.ofNat 16 n) else .error .outOfRange
  | .binary _ => .error .badNumber

/-- The operation of a line: an operand out of range is an assembly error and gives no word (R73). -/
def assemble (l : AsmLine) : Except AsmError Instr :=
  match l with
  | .encRd code hi => do return .encRd (← asmUnsigned 5 code) (← asmUnsigned 2 hi)
  | .encWr16 code imm hi => do return .encWr16 (← asmUnsigned 5 code) (← asmImm imm) (← asmUnsigned 2 hi)
  | .decR16 cmd => do return .decR16 (← asmUnsigned 8 cmd)
  | .decR8 cmd => do return .decR8 (← asmUnsigned 8 cmd)
  | .decAck cmd => do return .decAck (← asmUnsigned 8 cmd)
  | .tempDec imm => do return .tempDec (← asmImm imm)
  | .tempEnc imm => do return .tempEnc (← asmImm imm)
  | .faultUnpack mask => do return .faultUnpack (← asmUnsigned 8 mask)

/-- The value of a digit in base 16. -/
def digitValue (c : Char) : Option Nat :=
  let n := c.toNat
  if 48 ≤ n ∧ n ≤ 57 then some (n - 48)
  else if 65 ≤ n ∧ n ≤ 70 then some (n - 55)
  else if 97 ≤ n ∧ n ≤ 102 then some (n - 87)
  else none

/-- A number written in `base`, continuing from `acc`. -/
def digitsFrom (base acc : Nat) : List Char → Option Nat
  | [] => some acc
  | c :: cs =>
    match digitValue c with
    | some d => if d < base then digitsFrom base (acc * base + d) cs else none
    | none => none

/-- A number written in `base`, with at least one digit. -/
def digits (base : Nat) : List Char → Option Nat
  | [] => none
  | c :: cs => digitsFrom base 0 (c :: cs)

/-- One written operand. -/
def parseNumber (cs : List Char) : Except AsmError AsmNumber :=
  let r : Option AsmNumber :=
    match cs with
    | '0' :: 'x' :: ds => (digits 16 ds).map .hex
    | '0' :: 'b' :: ds => (digits 2 ds).map .binary
    | '-' :: ds => (digits 10 ds).map fun n => .decimal (-(n : Int))
    | ds => (digits 10 ds).map fun n => .decimal n
  match r with
  | some x => .ok x
  | none => .error .badNumber

/-- A blank character inside a line. -/
def isBlank (c : Char) : Bool := c == ' ' || c == '\t'

/-- A line without the blanks around it. -/
def trim (cs : List Char) : List Char := ((cs.dropWhile isBlank).reverse.dropWhile isBlank).reverse

/-- The pieces between commas. -/
def splitCommas : List Char → List (List Char)
  | [] => [[]]
  | c :: cs =>
    match splitCommas cs with
    | [] => [[c]]
    | p :: ps => if c == ',' then [] :: p :: ps else (c :: p) :: ps

/-- The written operands after a mnemonic. -/
def parseOperands (cs : List Char) : Except AsmError (List AsmNumber) :=
  match trim cs with
  | [] => .ok []
  | c :: ds => (splitCommas (c :: ds)).mapM fun p => parseNumber (trim p)

/-- A mnemonic with its operands (R73). -/
def parseForm (mnemonic : List Char) (ops : List AsmNumber) : Except AsmError AsmLine :=
  let one (f : AsmNumber → AsmLine) : Except AsmError AsmLine :=
    match ops with
    | [x] => .ok (f x)
    | _ => .error .operandCount
  if mnemonic = "ENC.RD".toList then
    match ops with
    | [code] => .ok (.encRd code (.binary 1))
    | [code, hi] => .ok (.encRd code hi)
    | _ => .error .operandCount
  else if mnemonic = "ENC.WR16".toList then
    match ops with
    | [code, imm] => .ok (.encWr16 code imm (.binary 1))
    | [code, imm, hi] => .ok (.encWr16 code imm hi)
    | _ => .error .operandCount
  else if mnemonic = "DEC.R16".toList then one .decR16
  else if mnemonic = "DEC.R8".toList then one .decR8
  else if mnemonic = "DEC.ACK".toList then one .decAck
  else if mnemonic = "TEMP.DEC".toList then one .tempDec
  else if mnemonic = "TEMP.ENC".toList then one .tempEnc
  else if mnemonic = "FAULT.UNPACK".toList then one .faultUnpack
  else .error .unknownMnemonic

/-- One line of text: `;` starts a comment, and a line with nothing before it holds no operation (R73). Of several errors
in one line, which one it gives is the model's choice (log entry 10). -/
def parseLine (text : List Char) : Except AsmError (Option AsmLine) :=
  match trim (text.takeWhile fun c => c != ';') with
  | [] => .ok none
  | c :: cs =>
    let line := c :: cs
    match parseOperands (line.dropWhile fun c => !isBlank c) with
    | .error e => .error e
    | .ok ops => (parseForm (line.takeWhile fun c => !isBlank c) ops).map some

/-- The encodings of a program, one operation a line (R73). A text with lines in error gives the error of the first of
them and no encodings: R73 says only that such a line produces no word, and the rest is the model's choice (log entry
10). -/
def assembleText : List (List Char) → Except AsmError (List Encoding)
  | [] => .ok []
  | line :: rest =>
    match parseLine line with
    | .error e => .error e
    | .ok none => assembleText rest
    | .ok (some l) =>
      match assemble l with
      | .error e => .error e
      | .ok i => (assembleText rest).map (encode i :: ·)

end Sys2Proof.Machine
end

