-- ==== Sys2Proof/Safety.lean ====
section
/-! DEFINITION. What claims call a good state: every frame the host presents is a command frame, the result bundle is
one that R24, R25, R102, R142 and R162 allow, and a written operand is in the range R73 gives it. -/

namespace Sys2Proof.Machine

/-- Every byte list the host is to present as a command frame is one (R67). Request words need no condition. -/
def FramesWellFormed (s : State) : Prop :=
  ∀ p ∈ s.todo, ∀ bs, p.what = .frame bs → (Encoding.frame bs).wellFormed = true

/-- A result bundle as R24 and R25 allow it, field by field. -/
structure Out.Consistent (o : Out) : Prop where
  /-- A status other than OK, or none, drives no value field (R25). -/
  errorDrivesNothing : o.st ≠ some .ok → o = { Out.undriven with st := o.st }
  /-- A frame has its first byte exactly when it has a length, and the other two exactly when that is 3 (R24). -/
  frameFirst : o.F0.isSome = o.flen.isSome
  framePayload : o.F1.isSome = (o.flen == some 3#2) ∧ o.F2.isSome = (o.flen == some 3#2)
  /-- A frame is 1 or 3 bytes long as bit 5 of its control byte says (R67, R102). -/
  frameLength : ∀ c, o.F0 = some c → o.flen = if c.getLsbD 5 then some 3#2 else some 1#2
  /-- Sign, whole degrees and tenths are driven together, with the value they split (R142). -/
  temperatureTogether : o.whole.isSome = o.neg.isSome ∧ o.tenths.isSome = o.neg.isSome
  /-- They are in range and give the value back exactly (R24, R144). -/
  temperatureExact : ∀ n w d, o.neg = some n → o.whole = some w → o.tenths = some d →
    w.toNat ≤ 3276 ∧ d.toNat ≤ 9 ∧
      ∃ v, o.v16 = some v ∧ v.toInt = (if n = 1#1 then -1 else 1) * (10 * (w.toNat : Int) + d.toNat)
  /-- The four fields of a fault set are driven together (R162). -/
  faultsTogether : o.unnamed.isSome = o.named.isSome ∧ o.nofault.isSome = o.named.isSome ∧
    o.count.isSome = o.named.isSome
  /-- They agree with the mask, which they give back (R161, R162). -/
  faultsExact : ∀ n u z c, o.named = some n → o.unnamed = some u → o.nofault = some z → o.count = some c →
    ∃ m, o.v8 = some m ∧ rebuildMask n u = m ∧ u &&& 0b10110101#8 = 0#8 ∧ (z = 1#1 ↔ m = 0#8) ∧
      c.toNat = (faultSet m).length

/-- The request word `w`, whenever it is presented, ends with ILLEGAL_OP: only `st` is driven, and beside it the ports
alone have changed (R65, R202). -/
def EndsIllegal (w : Word) : Prop :=
  ∀ (s : State) (r : List Byte) (rest : List Presentation), s.todo = ⟨.word w, r⟩ :: rest →
    step s = .next { s with W := w, R := r, todo := rest, out := { Out.undriven with st := some .illegalOp } }

/-- The request word `w`, whenever it is presented, runs as the operation `i`. -/
def RunsAs (w : Word) (i : Instr) : Prop :=
  ∀ (s : State) (r : List Byte) (rest : List Presentation), s.todo = ⟨.word w, r⟩ :: rest →
    step s = exec i { s with W := w, R := r, todo := rest }

/-- The range of an unsigned operand (R73). -/
def UnsignedInRange (width : Nat) (x : AsmNumber) : Prop := 0 ≤ asmValue x ∧ asmValue x < 2 ^ width

/-- The range of an `imm`: a signed decimal or a 16-bit hex pattern (R73). -/
def ImmInRange : AsmNumber → Prop
  | .decimal n => -32768 ≤ n ∧ n ≤ 32767
  | .hex n => n ≤ 0xFFFF
  | .binary _ => False

/-- Every operand of a line is in its range (R73). -/
def AsmLine.InRange : AsmLine → Prop
  | .encRd code hi => UnsignedInRange 5 code ∧ UnsignedInRange 2 hi
  | .encWr16 code imm hi => UnsignedInRange 5 code ∧ ImmInRange imm ∧ UnsignedInRange 2 hi
  | .decR16 cmd => UnsignedInRange 8 cmd
  | .decR8 cmd => UnsignedInRange 8 cmd
  | .decAck cmd => UnsignedInRange 8 cmd
  | .tempDec imm => ImmInRange imm
  | .tempEnc imm => ImmInRange imm
  | .faultUnpack mask => UnsignedInRange 8 mask

/-- The number of the request word a line stands for, field by field as R62 places them: `op`, then `code` at bit 4, `hi`
at bit 9, the immediate's 16-bit pattern at bit 16. -/
def asmWordNumber : AsmLine → Int
  | .encRd code hi => 1 + 16 * asmValue code + 512 * asmValue hi
  | .encWr16 code imm hi => 2 + 16 * asmValue code + 512 * asmValue hi + 65536 * (asmValue imm % 65536)
  | .decR16 cmd => 3 + 65536 * asmValue cmd
  | .decR8 cmd => 4 + 65536 * asmValue cmd
  | .decAck cmd => 5 + 65536 * asmValue cmd
  | .tempDec imm => 6 + 65536 * (asmValue imm % 65536)
  | .tempEnc imm => 7 + 65536 * (asmValue imm % 65536)
  | .faultUnpack mask => 8 + 65536 * asmValue mask

end Sys2Proof.Machine
end

