-- ==== Sys2Proof/Certificates/Slice0/Obligations.lean ====
section
/-! DEFINITION. The statements for the provers. Each docstring names the rule of spec/ it formalises. -/

open Sys2Proof Sys2Proof.Machine

/-! Encoding -/

/-- The encoder and the decoder agree on every operation, with every operand at every value its field admits (R61 to
R64). -/
def Obligations.EveryInstructionDecodesBack : Prop :=
  ∀ i : Instr, decode (encode i) = .ok i

/-- No bit of an encoding is ignored: what decodes to an operation is that operation's one encoding (R65). -/
def Obligations.DecodedEncodingIsTheOnlyOne : Prop :=
  ∀ (e : Encoding) (i : Instr), decode e = .ok i → encode i = e

/-- R76 (the spec marks it as derived from R61 to R63): a request word is an operation, with its operands at their bit ranges, exactly when its bits under the row's
mask are the row's; the W32 rows are pairwise disjoint; a word that matches none is ILLEGAL_OP; the control bytes of
command frames are hh0ccccc and hh1ccccc. -/
def Obligations.RequestWordIsTheRowItMatches : Prop :=
  (∀ w : Word,
    (decodeWord w = .ok (.encRd (w.extractLsb' 4 5) (w.extractLsb' 9 2)) ↔ w &&& 0xFFFFF80F#32 = 0x00000001#32) ∧
    (decodeWord w = .ok (.encWr16 (w.extractLsb' 4 5) (w.extractLsb' 16 16) (w.extractLsb' 9 2)) ↔
      w &&& 0x0000F80F#32 = 0x00000002#32) ∧
    (decodeWord w = .ok (.decR16 (w.extractLsb' 16 8)) ↔ w &&& 0xFF00FFFF#32 = 0x00000003#32) ∧
    (decodeWord w = .ok (.decR8 (w.extractLsb' 16 8)) ↔ w &&& 0xFF00FFFF#32 = 0x00000004#32) ∧
    (decodeWord w = .ok (.decAck (w.extractLsb' 16 8)) ↔ w &&& 0xFF00FFFF#32 = 0x00000005#32) ∧
    (decodeWord w = .ok (.tempDec (w.extractLsb' 16 16)) ↔ w &&& 0x0000FFFF#32 = 0x00000006#32) ∧
    (decodeWord w = .ok (.tempEnc (w.extractLsb' 16 16)) ↔ w &&& 0x0000FFFF#32 = 0x00000007#32) ∧
    (decodeWord w = .ok (.faultUnpack (w.extractLsb' 16 8)) ↔ w &&& 0xFF00FFFF#32 = 0x00000008#32) ∧
    ((∀ row ∈ opcodeRows, w &&& row.mask ≠ row.matchBits) → EndsIllegal w)) ∧
  (∀ row₁ ∈ opcodeRows, ∀ row₂ ∈ opcodeRows, ∀ w : Word,
    w &&& row₁.mask = row₁.matchBits → w &&& row₂.mask = row₂.matchBits → row₁ = row₂) ∧
  (∀ c lo hi : Byte,
    (decodeFrame [c] = .ok (.wireRead (c.extractLsb' 0 5) (c.extractLsb' 6 2)) ↔ c &&& 0x20#8 = 0x00#8) ∧
    (decodeFrame [c, lo, hi] = .ok (.wireWrite16 (c.extractLsb' 0 5) (hi ++ lo) (c.extractLsb' 6 2)) ↔
      c &&& 0x20#8 = 0x20#8))

/-- R65: every request word is exactly one operation or illegal; an illegal one ends with ILLEGAL_OP and drives no other
field; a 1 in a must-be-zero bit makes it illegal. -/
def Obligations.RequestWordIsOneOperationOrIllegal : Prop :=
  ∀ w : Word,
    ((∃ i, encode i = .word w ∧ RunsAs w i ∧ ∀ j, encode j = .word w → j = i) ∨
      ((∀ i, encode i ≠ .word w) ∧ EndsIllegal w)) ∧
    (w.extractLsb' 11 5 ≠ 0#5 → EndsIllegal w) ∧
    (w.extractLsb' 0 4 ≠ 0x1#4 → w.extractLsb' 0 4 ≠ 0x2#4 → w.extractLsb' 4 7 ≠ 0#7 → EndsIllegal w) ∧
    (w.extractLsb' 0 4 = 0x1#4 → w.extractLsb' 16 16 ≠ 0#16 → EndsIllegal w) ∧
    (w.extractLsb' 0 4 ∈ [0x3#4, 0x4#4, 0x5#4, 0x8#4] → w.extractLsb' 24 8 ≠ 0#8 → EndsIllegal w)

/-- Reserved operation numbers 0x0 and 0x9 to 0xF end with ILLEGAL_OP (R63; R202 calls the illegal request a refusal for
a model and a status for hardware, and the model takes the status: log entry 1). -/
def Obligations.ReservedOperationsEndIllegal : Prop :=
  ∀ w : Word, w.extractLsb' 0 4 = 0x0#4 ∨ 9 ≤ (w.extractLsb' 0 4).toNat → EndsIllegal w

/-- The decoder accepts exactly the well-formed encodings: words that match a row, frames of the length their direction
bit gives (R67, R76). -/
def Obligations.DecoderAcceptsExactlyWellFormed : Prop :=
  ∀ e : Encoding, (∃ i, decode e = .ok i) ↔ e.wellFormed = true

/-- A few words written out from the encoding patterns of R100, R101, R122, R123, R124, R142, R143 and R162, and the
two control bytes of R61. -/
def Obligations.SampleWordsDecode : Prop :=
  decode (.word 0b0000000000000000_00000_01_01001_0001#32) = .ok (.encRd 9#5 0b01#2) ∧
  decode (.word 0b0000000011111010_00000_01_00001_0010#32) = .ok (.encWr16 1#5 250#16 0b01#2) ∧
  decode (.word 0b00000000_01001001_000000000000_0011#32) = .ok (.decR16 0x49#8) ∧
  decode (.word 0b00000000_01001000_000000000000_0100#32) = .ok (.decR8 0x48#8) ∧
  decode (.word 0b00000000_01100001_000000000000_0101#32) = .ok (.decAck 0x61#8) ∧
  decode (.word 0b1111111111111011_000000000000_0110#32) = .ok (.tempDec 0xFFFB#16) ∧
  decode (.word 0b1111111111111011_000000000000_0111#32) = .ok (.tempEnc 0xFFFB#16) ∧
  decode (.word 0b00000000_00100001_000000000000_1000#32) = .ok (.faultUnpack 0x21#8) ∧
  decode (.frame [0b11_0_00110#8]) = .ok (.wireRead 6#5 0b11#2) ∧
  decode (.frame [0b01_1_00001#8, 0xFA#8, 0x00#8]) = .ok (.wireWrite16 1#5 250#16 0b01#2)

/-! Steps, reset and the ports -/

/-- A step runs the operation that the presented encoding decodes to, on the state in which the request word and the
reply have come to their ports (R21, R23). What a command frame does to the ports, leaving `W` as it is, and that each
presentation is taken off the host's list are the model's choices (log entries 2 and 4). -/
def Obligations.StepRunsTheDecodedInstruction : Prop :=
  ∀ (s : State) (e : Encoding) (r : List Byte) (rest : List Presentation) (i : Instr),
    s.todo = ⟨e, r⟩ :: rest → decode e = .ok i →
    step s = exec i { s with W := (match e with | .word w => w | .frame _ => s.W), R := r, todo := rest }

/-- The state the host's table rows are tried in: a row's bits, put where the next presentation is taken from, run as
the operation they decode to, with the reply that stands on the reply port (log entry 13); a wire row runs as the command
frame it begins, which leaves `W` as it is (log entry 2). -/
def Obligations.TableWordRunsFirst : Prop :=
  (∀ (s : State) (w : Nat) (i : Instr), decodeTableWord 32 w = some i →
    step (s.withFetchWord 32 w) = exec i { s with W := BitVec.ofNat 32 w }) ∧
  (∀ (s : State) (w : Nat) (i : Instr), decodeTableWord 8 w = some i → step (s.withFetchWord 8 w) = exec i s)

/-- With nothing presented a step changes nothing (the model's choice, log entry 4). -/
def Obligations.NothingPresentedChangesNothing : Prop :=
  ∀ s : State, s.todo = [] → step s = .next s

/-- The state after reset: the spec gives no reset value (R240), and these are the model's choices (log entries 4, 5 and
6). -/
def Obligations.ResetLeavesNothingDriven : Prop :=
  State.reset.out = { st := none, flen := none, F0 := none, F1 := none, F2 := none, v16 := none, v8 := none, neg := none,
                      whole := none, tenths := none, named := none, unnamed := none, nofault := none, count := none } ∧
  State.reset.W = 0#32 ∧ State.reset.R = [] ∧ State.reset.todo = []

/-! What each operation does -/

/-- R100: ENC.RD drives the control byte with bit 5 zero and length 1; it ends ILLEGAL_OP exactly on a nonzero
must-be-zero field. -/
def Obligations.EncRdBuildsReadFrame : Prop :=
  (∀ (code : Code) (hi : Hi) (s : State), ∃ c : Byte, c.toNat = 64 * hi.toNat + code.toNat ∧
    exec (.encRd code hi) s =
      .next { s with out := { Out.undriven with st := some .ok, flen := some 1#2, F0 := some c } }) ∧
  ∀ w : Word, w.extractLsb' 0 4 = 0x1#4 →
    (w.extractLsb' 11 5 = 0#5 → w.extractLsb' 16 16 = 0#16 →
      RunsAs w (.encRd (w.extractLsb' 4 5) (w.extractLsb' 9 2))) ∧
    (¬(w.extractLsb' 11 5 = 0#5 ∧ w.extractLsb' 16 16 = 0#16) → EndsIllegal w)

/-- R101: ENC.WR16 drives the control byte with bit 5 set, the payload low byte first, and length 3; it ends ILLEGAL_OP
exactly on a nonzero reserved field. -/
def Obligations.EncWr16BuildsWriteFrame : Prop :=
  (∀ (code : Code) (imm16 : Half) (hi : Hi) (s : State), ∃ c b1 b2 : Byte,
    c.toNat = 64 * hi.toNat + 32 + code.toNat ∧ b1.toNat = imm16.toNat % 256 ∧ b2.toNat = imm16.toNat / 256 ∧
    exec (.encWr16 code imm16 hi) s =
      .next { s with out := { Out.undriven with st := some .ok, flen := some 3#2, F0 := some c, F1 := some b1,
                                                F2 := some b2 } }) ∧
  ∀ w : Word, w.extractLsb' 0 4 = 0x2#4 →
    (w.extractLsb' 11 5 = 0#5 →
      RunsAs w (.encWr16 (w.extractLsb' 4 5) (w.extractLsb' 16 16) (w.extractLsb' 9 2))) ∧
    (w.extractLsb' 11 5 ≠ 0#5 → EndsIllegal w)

/-- R122: DEC.R16 gives the little-endian payload of a 3-byte reply with the right echo, LENGTH_MISMATCH for any other
length, CODE_MISMATCH for any other echo, ILLEGAL_OP for a nonzero must-be-zero bit; an error drives no value. -/
def Obligations.DecR16ReadsSixteenBits : Prop :=
  (∀ (cmd lo hi : Byte) (s : State), s.R = [cmd, lo, hi] → ∃ v : Half, v.toNat = lo.toNat + 256 * hi.toNat ∧
    exec (.decR16 cmd) s = .next { s with out := { Out.undriven with st := some .ok, v16 := some v } }) ∧
  (∀ (cmd : Byte) (s : State), s.R.length ≠ 3 →
    exec (.decR16 cmd) s = .next { s with out := { Out.undriven with st := some .lengthMismatch } }) ∧
  (∀ (cmd b lo hi : Byte) (s : State), s.R = [b, lo, hi] → b ≠ cmd →
    exec (.decR16 cmd) s = .next { s with out := { Out.undriven with st := some .codeMismatch } }) ∧
  ∀ w : Word, w.extractLsb' 0 4 = 0x3#4 →
    (w.extractLsb' 4 12 = 0#12 → w.extractLsb' 24 8 = 0#8 → RunsAs w (.decR16 (w.extractLsb' 16 8))) ∧
    (¬(w.extractLsb' 4 12 = 0#12 ∧ w.extractLsb' 24 8 = 0#8) → EndsIllegal w)

/-- R123: the same for DEC.R8, a 2-byte reply and its unsigned byte. -/
def Obligations.DecR8ReadsEightBits : Prop :=
  (∀ (cmd b : Byte) (s : State), s.R = [cmd, b] →
    exec (.decR8 cmd) s = .next { s with out := { Out.undriven with st := some .ok, v8 := some b } }) ∧
  (∀ (cmd : Byte) (s : State), s.R.length ≠ 2 →
    exec (.decR8 cmd) s = .next { s with out := { Out.undriven with st := some .lengthMismatch } }) ∧
  (∀ (cmd c b : Byte) (s : State), s.R = [c, b] → c ≠ cmd →
    exec (.decR8 cmd) s = .next { s with out := { Out.undriven with st := some .codeMismatch } }) ∧
  ∀ w : Word, w.extractLsb' 0 4 = 0x4#4 →
    (w.extractLsb' 4 12 = 0#12 → w.extractLsb' 24 8 = 0#8 → RunsAs w (.decR8 (w.extractLsb' 16 8))) ∧
    (¬(w.extractLsb' 4 12 = 0#12 ∧ w.extractLsb' 24 8 = 0#8) → EndsIllegal w)

/-- R124: the same for DEC.ACK, a 1-byte reply that drives the status alone. -/
def Obligations.DecAckAcceptsTheEcho : Prop :=
  (∀ (cmd : Byte) (s : State), s.R = [cmd] →
    exec (.decAck cmd) s = .next { s with out := { Out.undriven with st := some .ok } }) ∧
  (∀ (cmd : Byte) (s : State), s.R.length ≠ 1 →
    exec (.decAck cmd) s = .next { s with out := { Out.undriven with st := some .lengthMismatch } }) ∧
  (∀ (cmd b : Byte) (s : State), s.R = [b] → b ≠ cmd →
    exec (.decAck cmd) s = .next { s with out := { Out.undriven with st := some .codeMismatch } }) ∧
  ∀ w : Word, w.extractLsb' 0 4 = 0x5#4 →
    (w.extractLsb' 4 12 = 0#12 → w.extractLsb' 24 8 = 0#8 → RunsAs w (.decAck (w.extractLsb' 16 8))) ∧
    (¬(w.extractLsb' 4 12 = 0#12 ∧ w.extractLsb' 24 8 = 0#8) → EndsIllegal w)

/-- R142: TEMP.DEC drives the raw pattern, its sign, and the whole degrees and tenths of its magnitude, for every 16-bit
pattern. -/
def Obligations.TempDecSplitsTheReading : Prop :=
  (∀ (imm16 : Half) (s : State), ∃ (n : BitVec 1) (w : BitVec 12) (d : BitVec 4),
    n.toNat = (if imm16.toInt < 0 then 1 else 0) ∧ w.toNat = imm16.toInt.natAbs / 10 ∧
    d.toNat = imm16.toInt.natAbs % 10 ∧ w.toNat ≤ 3276 ∧ d.toNat ≤ 9 ∧
    exec (.tempDec imm16) s =
      .next { s with out := { Out.undriven with st := some .ok, v16 := some imm16, neg := some n, whole := some w,
                                                tenths := some d } }) ∧
  ∀ w : Word, w.extractLsb' 0 4 = 0x6#4 →
    (w.extractLsb' 4 12 = 0#12 → RunsAs w (.tempDec (w.extractLsb' 16 16))) ∧
    (w.extractLsb' 4 12 ≠ 0#12 → EndsIllegal w)

/-- R143: TEMP.ENC passes every 16-bit pattern unchanged. -/
def Obligations.TempEncPassesThrough : Prop :=
  (∀ (imm16 : Half) (s : State),
    exec (.tempEnc imm16) s = .next { s with out := { Out.undriven with st := some .ok, v16 := some imm16 } }) ∧
  ∀ w : Word, w.extractLsb' 0 4 = 0x7#4 →
    (w.extractLsb' 4 12 = 0#12 → RunsAs w (.tempEnc (w.extractLsb' 16 16))) ∧
    (w.extractLsb' 4 12 ≠ 0#12 → EndsIllegal w)

/-- R162: FAULT.UNPACK drives the mask, the named and the unnamed bits, `nofault` and the number of set bits. -/
def Obligations.FaultUnpackExpandsTheMask : Prop :=
  (∀ (m : Byte) (s : State), ∃ (n : BitVec 5) (u : Byte) (z : BitVec 1) (c : BitVec 4),
    n.getLsbD 0 = m.getLsbD 0 ∧ n.getLsbD 1 = m.getLsbD 2 ∧ n.getLsbD 2 = m.getLsbD 4 ∧ n.getLsbD 3 = m.getLsbD 5 ∧
    n.getLsbD 4 = m.getLsbD 7 ∧
    (∀ p, u.getLsbD p = (m.getLsbD p && (p == 1 || p == 3 || p == 6))) ∧
    z = (if m = 0x00#8 then 1#1 else 0#1) ∧ c.toNat = ((List.range 8).filter fun p => m.getLsbD p).length ∧
    exec (.faultUnpack m) s =
      .next { s with out := { Out.undriven with st := some .ok, v8 := some m, named := some n, unnamed := some u,
                                                nofault := some z, count := some c } }) ∧
  ∀ w : Word, w.extractLsb' 0 4 = 0x8#4 →
    (w.extractLsb' 4 12 = 0#12 → w.extractLsb' 24 8 = 0#8 → RunsAs w (.faultUnpack (w.extractLsb' 16 8))) ∧
    (¬(w.extractLsb' 4 12 = 0#12 ∧ w.extractLsb' 24 8 = 0#8) → EndsIllegal w)

/-- The two wire rows have the result of the rule their row names: the frame that R100 or R101 builds (the model's
reading, log entry 2). The last two clauses start from the bytes on the wire. -/
def Obligations.WireFramesHaveTheirRulesResult : Prop :=
  (∀ (code : Code) (hi : Hi) (s : State), ∃ c : Byte, c.toNat = 64 * hi.toNat + code.toNat ∧
    exec (.wireRead code hi) s =
      .next { s with out := { Out.undriven with st := some .ok, flen := some 1#2, F0 := some c } }) ∧
  (∀ (code : Code) (v : Half) (hi : Hi) (s : State), ∃ c b1 b2 : Byte,
    c.toNat = 64 * hi.toNat + 32 + code.toNat ∧ v.toNat = b1.toNat + 256 * b2.toNat ∧
    exec (.wireWrite16 code v hi) s =
      .next { s with out := { Out.undriven with st := some .ok, flen := some 3#2, F0 := some c, F1 := some b1,
                                                F2 := some b2 } }) ∧
  (∀ (s : State) (c : Byte) (r : List Byte) (rest : List Presentation), s.todo = ⟨.frame [c], r⟩ :: rest →
    c.getLsbD 5 = false →
    step s = .next { s with R := r, todo := rest,
                            out := { Out.undriven with st := some .ok, flen := some 1#2, F0 := some c } }) ∧
  (∀ (s : State) (c b1 b2 : Byte) (r : List Byte) (rest : List Presentation),
    s.todo = ⟨.frame [c, b1, b2], r⟩ :: rest → c.getLsbD 5 = true →
    step s = .next { s with R := r, todo := rest,
                            out := { Out.undriven with st := some .ok, flen := some 3#2, F0 := some c, F1 := some b1,
                                                       F2 := some b2 } })

/-! Laws of the families -/

/-- The frames of the two encode operations carry their operands (R102, which the spec marks as derived from R100 and
R101). -/
def Obligations.EncodedFramesKeepTheirFields : Prop :=
  ∀ (code : Code) (imm16 : Half) (hi : Hi) (s t : State),
    (exec (.encRd code hi) s = .next t → t.out.flen = some 1#2 ∧ ∃ c, t.out.F0 = some c ∧ c.extractLsb' 0 5 = code ∧
      c.extractLsb' 5 1 = 0#1 ∧ c.extractLsb' 6 2 = hi) ∧
    (exec (.encWr16 code imm16 hi) s = .next t → t.out.flen = some 3#2 ∧ ∃ c b1 b2, t.out.F0 = some c ∧
      t.out.F1 = some b1 ∧ t.out.F2 = some b2 ∧ c.extractLsb' 0 5 = code ∧ c.extractLsb' 5 1 = 1#1 ∧
      c.extractLsb' 6 2 = hi ∧ b2 ++ b1 = imm16)

/-- R120 and R201: ILLEGAL_OP before LENGTH_MISMATCH before CODE_MISMATCH, for the three decode operations and every
reply. The first failure ends the operation with its status alone, and with none the status is OK. -/
def Obligations.ReplyChecksRunInOrder : Prop :=
  ∀ (s : State) (w : Word) (r : List Byte) (rest : List Presentation) (n : Nat),
    s.todo = ⟨.word w, r⟩ :: rest →
    (w.extractLsb' 0 4 = 0x3#4 ∧ n = 3 ∨ w.extractLsb' 0 4 = 0x4#4 ∧ n = 2 ∨ w.extractLsb' 0 4 = 0x5#4 ∧ n = 1) →
    ∃ t, step s = .next t ∧
      if w.extractLsb' 4 12 ≠ 0#12 ∨ w.extractLsb' 24 8 ≠ 0#8 then
        t.out = { Out.undriven with st := some .illegalOp }
      else if r.length ≠ n then t.out = { Out.undriven with st := some .lengthMismatch }
      else if r[0]? ≠ some (w.extractLsb' 16 8) then t.out = { Out.undriven with st := some .codeMismatch }
      else t.out.st = some .ok

/-- Whatever the request word of a decode operation and whatever the reply, the operation ends with exactly one status,
and with no value at all unless it is OK (R126, which the spec marks as derived from R120 to R124). -/
def Obligations.DecodeOperationsAlwaysEnd : Prop :=
  ∀ (s : State) (w : Word) (r : List Byte) (rest : List Presentation), s.todo = ⟨.word w, r⟩ :: rest →
    w.extractLsb' 0 4 ∈ [0x3#4, 0x4#4, 0x5#4] →
    ∃ t, step s = .next t ∧ (t.out.st = some .ok ∨ t.out = { Out.undriven with st := some .lengthMismatch } ∨
      t.out = { Out.undriven with st := some .codeMismatch } ∨ t.out = { Out.undriven with st := some .illegalOp })

/-- The frame of ENC.WR16, given to DEC.R16 as the reply to its own control byte, gives its value back (R125, which the
spec marks as derived from R101, R120 and R122). -/
def Obligations.WriteFrameRoundTrips : Prop :=
  ∀ (c : Code) (h : Hi) (v : Half) (s t : State), exec (.encWr16 c v h) s = .next t →
    ∃ b0 b1 b2, t.out.F0 = some b0 ∧ t.out.F1 = some b1 ∧ t.out.F2 = some b2 ∧
      exec (.decR16 b0) { t with R := [b0, b1, b2] } =
        .next { t with R := [b0, b1, b2], out := { Out.undriven with st := some .ok, v16 := some v } }

/-- R41: payloads are little-endian in the command frame of a 16-bit write and in the reply of a 16-bit read. -/
def Obligations.PayloadsAreLittleEndian : Prop :=
  (∀ (code : Code) (imm16 : Half) (hi : Hi) (s t : State), exec (.encWr16 code imm16 hi) s = .next t →
    t.out.F1 = some (imm16.extractLsb' 0 8) ∧ t.out.F2 = some (imm16.extractLsb' 8 8)) ∧
  (∀ (cmd lo hi : Byte) (s t : State), s.R = [cmd, lo, hi] → exec (.decR16 cmd) s = .next t →
    ∃ v, t.out.v16 = some v ∧ v.extractLsb' 0 8 = lo ∧ v.extractLsb' 8 8 = hi)

/-- The split is exact, TEMP.ENC is the identity, and the round trip loses nothing (R144, which the spec marks as derived
from R142 and R143). -/
def Obligations.TemperatureSplitIsExact : Prop :=
  ∀ (b : Half) (s : State), ∃ t u,
    exec (.tempDec b) s = .next t ∧
    (∃ n w d, t.out.neg = some n ∧ t.out.whole = some w ∧ t.out.tenths = some d ∧
      b.toInt = (if n = 1#1 then -1 else 1) * (10 * (w.toNat : Int) + d.toNat)) ∧
    exec (.tempEnc b) s = .next u ∧ u.out.v16 = some b ∧
    ∀ v, u.out.v16 = some v → ∃ x, exec (.tempDec v) u = .next x ∧ x.out.v16 = some b

/-- The sign, whole-degree and tenths fields carry exactly the value T / 10 °C, within -3276.8 and 3276.7 (R140, R141). -/
def Obligations.SplitFieldsCarryTheTemperature : Prop :=
  ∀ (b : Half) (s t : State), exec (.tempDec b) s = .next t →
    ∃ n w d, t.out.neg = some n ∧ t.out.whole = some w ∧ t.out.tenths = some d ∧
      (b.toInt : Rat) / 10 = (if n = 1#1 then -1 else 1) * ((w.toNat : Rat) + (d.toNat : Rat) / 10) ∧
      celsius b = (b.toInt : Rat) / 10 ∧ -32768 / 10 ≤ celsius b ∧ celsius b ≤ 32767 / 10

/-- The fault set holds exactly the set positions, each with the kind R160's table gives it, in ascending order, and
`count` is its length (R164, which the spec marks as derived from R160 and R162). -/
def Obligations.FaultSetListsEverySetBit : Prop :=
  ∀ (m : Byte) (s t : State), exec (.faultUnpack m) s = .next t →
    (∀ p k, (p, k) ∈ faultSet m ↔ m.getLsbD p = true ∧
      (p, k) ∈ [(0, FaultKind.tankLevelLow), (1, .unnamed), (2, .tempAboveAlarm), (3, .unnamed), (4, .rtdFault),
        (5, .pumpFault), (6, .unnamed), (7, .tempBelowAlarm)]) ∧
    ((faultSet m).map Prod.fst).Pairwise (· < ·) ∧
    ∃ c, t.out.count = some c ∧ c.toNat = (faultSet m).length

/-- R161: the layout of `named`, `unnamed` keeping each unnamed bit in place, and the mask rebuilt from the two. -/
def Obligations.FaultFieldsLoseNothing : Prop :=
  ∀ (m : Byte) (s t : State), exec (.faultUnpack m) s = .next t →
    ∃ n u, t.out.named = some n ∧ t.out.unnamed = some u ∧
      n.getLsbD 0 = m.getLsbD 0 ∧ n.getLsbD 1 = m.getLsbD 2 ∧ n.getLsbD 2 = m.getLsbD 4 ∧ n.getLsbD 3 = m.getLsbD 5 ∧
      n.getLsbD 4 = m.getLsbD 7 ∧
      (∀ p < 8, u.getLsbD p = true ↔ m.getLsbD p = true ∧ faultKind p = .unnamed) ∧ rebuildMask n u = m

/-- R163: a fault byte is a valid reading whatever it is, and `nofault` reports exactly the empty one. -/
def Obligations.EmptyMaskMeansNoFault : Prop :=
  ∀ (m : Byte) (s : State), ∃ t, exec (.faultUnpack m) s = .next t ∧ t.out.st = some .ok ∧
    (t.out.nofault = some 1#1 ↔ m = 0x00#8) ∧ (faultSet m = [] ↔ m = 0x00#8)

/-- The control bytes of the formulas of R71's table, its alternate bytes, and the lengths of its frames and replies (the
spec marks the table as derived from R61 and R70). Every reply is 1 to 3 bytes, `1 + payload_width` with a payload width of
0, 1 or 2 (R7): for the decode operations, for the documented codes, and for what `PARAM_INFO` and `ALT_REPLY_LEN` leave
open (log entry 9). -/
def Obligations.DocumentedControlBytesAreBuilt : Prop :=
  (∀ (code : Code) (v : Half) (s t : State),
    (exec (.encRd code 0b01#2) s = .next t → t.out.F0 = some (0x40#8 ||| code.setWidth 8)) ∧
    (exec (.encWr16 code v 0b01#2) s = .next t → t.out.F0 = some (0x60#8 ||| code.setWidth 8)) ∧
    (exec (.encRd code 0b11#2) s = .next t → t.out.F0 = some (0xC0#8 ||| code.setWidth 8)) ∧
    (exec (.encWr16 code v 0b11#2) s = .next t → t.out.F0 = some (0xE0#8 ||| code.setWidth 8))) ∧
  (∀ row ∈ controlTable,
    row.frameLength = (if row.ctrl.getLsbD 5 then 3 else 1) ∧
    (row.ctrl.getLsbD 7 = false → expectedReplyLength row =
      if row.ctrl.getLsbD 5 then 1 else 1 + (paramTable (row.ctrl.extractLsb' 0 5)).payloadWidth.val) ∧
    (row.ctrl.getLsbD 7 = true → expectedReplyLength row = Config.altReplyLen row.ctrl) ∧
    1 ≤ expectedReplyLength row ∧ expectedReplyLength row ≤ 3) ∧
  (replyLength .r16 = 3 ∧ replyLength .r8 = 2 ∧ replyLength .ack = 1) ∧
  (∀ code ∈ [1#5, 6#5, 7#5, 9#5], (paramTable code).payloadWidth.val = 2) ∧
  (paramTable 8#5).payloadWidth.val = 1 ∧
  (∀ code, (paramTable code).payloadWidth.val ≤ 2) ∧
  (∀ ctrl, 1 ≤ Config.altReplyLen ctrl ∧ Config.altReplyLen ctrl ≤ 3) ∧
  controlTable.map (fun row => row.ctrl) =
    [0x41#8, 0x61#8, 0x46#8, 0x66#8, 0x47#8, 0x67#8, 0x48#8, 0x49#8, 0xC6#8, 0xC7#8, 0xE6#8, 0xE7#8]

/-- The identity query is the set-point read, and the identity check is DEC.R16 0x41 ending OK: a reply of exactly 3
bytes starting with 'A' (R72, which the spec marks as derived; 'A' being 0x41 is its general-knowledge item K1, log entry
14). ID.QUERY as a whole (R75, run as log entry 12 says) sends 'A' and ends OK on such a reply. -/
def Obligations.IdentityQueryIsSetPointRead : Prop :=
  (∀ s : State, exec (.encRd 1#5 0b01#2) s = .next { s with out :=
      { Out.undriven with st := some .ok, flen := some 1#2, F0 := some (BitVec.ofNat 8 'A'.toNat) } }) ∧
  (∀ s : State, ∃ t, exec (.decR16 0x41#8) s = .next t ∧
    (t.out.st = some .ok ↔ ∃ x y, s.R = [BitVec.ofNat 8 'A'.toNat, x, y])) ∧
  (∀ (x y : Byte) (l : Link) (later : List LinkReply),
    l.incoming = .bytes [BitVec.ofNat 8 'A'.toNat, x, y] :: later →
    ∃ l', runAccessor .idQuery l = .done l' ∧ l'.sent = l.sent ++ [[BitVec.ofNat 8 'A'.toNat]] ∧ l'.incoming = later ∧
      l'.cfc.out = { Out.undriven with st := some .ok, v16 := some (y ++ x) })

/-! The whole machine -/

/-- R200: the four status numbers, and what raises each: every request word ends with exactly one status;
LENGTH_MISMATCH exactly when a decode operation gets a reply of another length than 3, 2 or 1, CODE_MISMATCH exactly when
it gets the right length and another echo, ILLEGAL_OP exactly from a word that is no operation. -/
def Obligations.EveryOperationEndsWithOneStatus : Prop :=
  (statusBits .ok).toNat = 0 ∧ (statusBits .lengthMismatch).toNat = 1 ∧ (statusBits .codeMismatch).toNat = 2 ∧
  (statusBits .illegalOp).toNat = 3 ∧
  ∀ (s : State) (w : Word) (r : List Byte) (rest : List Presentation), s.todo = ⟨.word w, r⟩ :: rest →
    ∃ t st, step s = .next t ∧ t.out.st = some st ∧
      (st = .lengthMismatch ↔ ∃ cmd, decodeWord w = .ok (.decR16 cmd) ∧ r.length ≠ 3 ∨
        decodeWord w = .ok (.decR8 cmd) ∧ r.length ≠ 2 ∨ decodeWord w = .ok (.decAck cmd) ∧ r.length ≠ 1) ∧
      (st = .codeMismatch ↔ ∃ cmd, r[0]? ≠ some cmd ∧ (decodeWord w = .ok (.decR16 cmd) ∧ r.length = 3 ∨
        decodeWord w = .ok (.decR8 cmd) ∧ r.length = 2 ∨ decodeWord w = .ok (.decAck cmd) ∧ r.length = 1)) ∧
      (st = .illegalOp ↔ ∀ i, decodeWord w ≠ .ok i)

/-- The frame of every operation: the ports `W` and `R` and the host's list stay as they are; the result bundle alone is
written (R20, R24). Those rules speak of operations of the request word; that WIRE.READ and WIRE.WRITE16 answer and write
the bundle alone is the model's choice (log entry 2). -/
def Obligations.OperationsWriteOnlyTheBundle : Prop :=
  ∀ (i : Instr) (s : State), ∃ t, exec i s = .next t ∧ t.W = s.W ∧ t.R = s.R ∧ t.todo = s.todo ∧
    t = { s with out := t.out }

/-- R24's "driven by" column, read off the bundle each operation leaves when it ends OK: a field is driven exactly by
the operations the table names. -/
def Obligations.FieldsAreDrivenByTheirOperations : Prop :=
  ∀ (s t : State) (w : Word) (r : List Byte) (rest : List Presentation), s.todo = ⟨.word w, r⟩ :: rest →
    step s = .next t → t.out.st = some .ok →
    (t.out.flen.isSome ↔ w.extractLsb' 0 4 ∈ [0x1#4, 0x2#4]) ∧
    (t.out.F0.isSome ↔ w.extractLsb' 0 4 ∈ [0x1#4, 0x2#4]) ∧
    (t.out.F1.isSome ↔ w.extractLsb' 0 4 = 0x2#4) ∧ (t.out.F2.isSome ↔ w.extractLsb' 0 4 = 0x2#4) ∧
    (t.out.v16.isSome ↔ w.extractLsb' 0 4 ∈ [0x3#4, 0x6#4, 0x7#4]) ∧
    (t.out.v8.isSome ↔ w.extractLsb' 0 4 ∈ [0x4#4, 0x8#4]) ∧
    (t.out.neg.isSome ↔ w.extractLsb' 0 4 = 0x6#4) ∧ (t.out.whole.isSome ↔ w.extractLsb' 0 4 = 0x6#4) ∧
    (t.out.tenths.isSome ↔ w.extractLsb' 0 4 = 0x6#4) ∧ (t.out.named.isSome ↔ w.extractLsb' 0 4 = 0x8#4) ∧
    (t.out.unnamed.isSome ↔ w.extractLsb' 0 4 = 0x8#4) ∧ (t.out.nofault.isSome ↔ w.extractLsb' 0 4 = 0x8#4) ∧
    (t.out.count.isSome ↔ w.extractLsb' 0 4 = 0x8#4)

/-- R25: an operation that ends with a status other than OK drives no value field, and in hardware, after an operation,
an undriven field reads as zero; a driven field shows its value. That a command frame drives a status and a bundle is the
model's choice (log entry 2), and the hardware view of an undriven field is read off R25 (log entry 7). -/
def Obligations.ErrorsCarryNoValue : Prop :=
  (∀ (s t : State) (p : Presentation) (rest : List Presentation), s.todo = p :: rest → step s = .next t →
    t.out.st ≠ some .ok → ∃ st, t.out = { Out.undriven with st := some st } ∧
      hardwareOut t.out = { st := statusBits st, flen := 0, F0 := 0, F1 := 0, F2 := 0, v16 := 0, v8 := 0, neg := 0,
                            whole := 0, tenths := 0, named := 0, unnamed := 0, nofault := 0, count := 0 }) ∧
  (∀ (s t : State) (p : Presentation) (rest : List Presentation), s.todo = p :: rest → step s = .next t →
    (t.out.flen = none → (hardwareOut t.out).flen = 0) ∧ (∀ v, t.out.flen = some v → (hardwareOut t.out).flen = v) ∧
    (t.out.F0 = none → (hardwareOut t.out).F0 = 0) ∧ (∀ v, t.out.F0 = some v → (hardwareOut t.out).F0 = v) ∧
    (t.out.F1 = none → (hardwareOut t.out).F1 = 0) ∧ (∀ v, t.out.F1 = some v → (hardwareOut t.out).F1 = v) ∧
    (t.out.F2 = none → (hardwareOut t.out).F2 = 0) ∧ (∀ v, t.out.F2 = some v → (hardwareOut t.out).F2 = v) ∧
    (t.out.v16 = none → (hardwareOut t.out).v16 = 0) ∧ (∀ v, t.out.v16 = some v → (hardwareOut t.out).v16 = v) ∧
    (t.out.v8 = none → (hardwareOut t.out).v8 = 0) ∧ (∀ v, t.out.v8 = some v → (hardwareOut t.out).v8 = v) ∧
    (t.out.neg = none → (hardwareOut t.out).neg = 0) ∧ (∀ v, t.out.neg = some v → (hardwareOut t.out).neg = v) ∧
    (t.out.whole = none → (hardwareOut t.out).whole = 0) ∧ (∀ v, t.out.whole = some v → (hardwareOut t.out).whole = v) ∧
    (t.out.tenths = none → (hardwareOut t.out).tenths = 0) ∧
    (∀ v, t.out.tenths = some v → (hardwareOut t.out).tenths = v) ∧
    (t.out.named = none → (hardwareOut t.out).named = 0) ∧ (∀ v, t.out.named = some v → (hardwareOut t.out).named = v) ∧
    (t.out.unnamed = none → (hardwareOut t.out).unnamed = 0) ∧
    (∀ v, t.out.unnamed = some v → (hardwareOut t.out).unnamed = v) ∧
    (t.out.nofault = none → (hardwareOut t.out).nofault = 0) ∧
    (∀ v, t.out.nofault = some v → (hardwareOut t.out).nofault = v) ∧
    (t.out.count = none → (hardwareOut t.out).count = 0) ∧ (∀ v, t.out.count = some v → (hardwareOut t.out).count = v) ∧
    ∃ st, t.out.st = some st ∧ (hardwareOut t.out).st = statusBits st)

/-- R20: an operation's result is a function of what is presented alone, not of the bundle, the ports or the list it
finds; for an operation other than the three decodes the reply does not matter either (R23); and an operation writes its
result bundle and nothing else. That this holds of command frames and the two wire rows too is the model's choice, for the
rules speak of request words (log entry 2). -/
def Obligations.ResultDependsOnlyOnWhatIsPresented : Prop :=
  (∀ (p : Presentation) (s₁ s₂ t₁ : State) (rest₁ rest₂ : List Presentation), s₁.todo = p :: rest₁ →
    s₂.todo = p :: rest₂ → step s₁ = .next t₁ → ∃ t₂, step s₂ = .next t₂ ∧ t₂.out = t₁.out) ∧
  (∀ (e : Encoding) (i : Instr) (r₁ r₂ : List Byte) (s₁ s₂ t₁ : State) (rest₁ rest₂ : List Presentation),
    decode e = .ok i → (∀ cmd, i ≠ .decR16 cmd ∧ i ≠ .decR8 cmd ∧ i ≠ .decAck cmd) →
    s₁.todo = ⟨e, r₁⟩ :: rest₁ → s₂.todo = ⟨e, r₂⟩ :: rest₂ → step s₁ = .next t₁ →
    ∃ t₂, step s₂ = .next t₂ ∧ t₂.out = t₁.out) ∧
  (∀ (i : Instr) (s t : State), exec i s = .next t → t = { s with out := t.out })

/-- Presenting the same inputs twice gives the same result (R46, which the spec marks as derived from R20). For a
command frame it is the model's choice (log entry 2). -/
def Obligations.PresentingTwiceGivesTheSame : Prop :=
  ∀ (s t : State) (p : Presentation) (rest : List Presentation), s.todo = p :: p :: rest → step s = .next t →
    ∃ u, step t = .next u ∧ u = { t with todo := rest }

/-- The reply port of R23: any count width from 3 bits up, and whatever stands at bytes that are not read, gives every
decode operation the status and the value that the unbounded byte list gives (R8, D5). -/
def Obligations.ReplyCountWidthNeverMatters : Prop :=
  3 ≤ Config.rlenW ∧
  ∀ (rlenW : Nat) (idle cmd : Byte) (r : List Byte), 3 ≤ rlenW →
    (∀ n ∈ [1, 2, 3], checkPort n cmd (replyPort rlenW idle r) = check n cmd r) ∧
    (check 3 cmd r = .ok →
      le16 (replyPort rlenW idle r).b1 (replyPort rlenW idle r).b2 = replyPayload16 r) ∧
    (check 2 cmd r = .ok → (replyPort rlenW idle r).b1 = replyPayload8 r)

/-- When a step stops: exactly when a byte list that is no command frame is presented as one (the model's own fault, log
entry 3), so that every command frame answers (log entry 2). That no step is refused, an illegal request word included, is the model's choice between the two readings R202
gives (log entry 1). -/
def Obligations.OnlyMalformedFramesStop : Prop :=
  ∀ s : State,
    (step s = .fault .malformedFrame ↔
      ∃ bs r rest, s.todo = ⟨.frame bs, r⟩ :: rest ∧ (Encoding.frame bs).wellFormed = false) ∧
    ∀ reason, step s ≠ .refused reason

/-- No run of request words and command frames ever stops, however long it is and whatever the replies are. That an
illegal request word answers a next state is the model's choice (log entry 1), and so are command frames as operations (log
entry 2) and the steps past the end of the host's list, which change nothing (log entry 4). -/
def Obligations.RunsOfOperationsNeverStop : Prop :=
  ∀ (k : Nat) (s : State), FramesWellFormed s → ∃ t, Host.Core.run core k s = .next t ∧ FramesWellFormed t

/-- From the first operation on, `out` is the result of the last operation presented, as that operation would give it
alone from reset (R240, R48). What an illegal request word and a command frame leave on the bundle, and the host's list, are
the model's choices (log entries 1, 2 and 4). -/
def Obligations.LastOperationDecidesTheBundle : Prop :=
  ∀ (ps : List Presentation) (p : Presentation) (s : State), s.todo = ps ++ [p] → FramesWellFormed s →
    ∃ t u, Host.Core.run core (ps.length + 1) s = .next t ∧ step { State.reset with todo := [p] } = .next u ∧
      t.out = u.out ∧ t.todo = []

/-- Every step keeps the result bundle consistent, after a request word, an illegal one included (log entry 1), and after
a command frame (log entry 2): errors carry nothing, frames have the length their direction bit gives, temperatures and
fault sets agree with the value they split (R24, R25, R67, R102, R144, R161, R162). -/
def Obligations.StepKeepsTheBundleConsistent : Prop :=
  ∀ s t : State, s.out.Consistent → step s = .next t → t.out.Consistent

/-- The bundle after reset is consistent. -/
def Obligations.ResetBundleIsConsistent : Prop := State.reset.out.Consistent

/-! The assembler and the pseudo-operations -/

/-- A line whose operands are in range assembles to the request word R62 lays out, and any other line gives no word
(R73; what counts as a number is log entry 10). -/
def Obligations.AssembledWordHasItsFields : Prop :=
  ∀ l : AsmLine,
    (l.InRange → ∃ i w, assemble l = .ok i ∧ encode i = .word w ∧ (w.toNat : Int) = asmWordNumber l) ∧
    (¬ l.InRange → ∃ e, assemble l = .error e)

/-- Reading a temperature parameter (R75, run as log entries 11 and 12 say): a 3-byte answer with the right echo comes
back as its split temperature, the host having sent the one-byte command. -/
def Obligations.TemperatureReadsEndToEnd : Prop :=
  ∀ (p : Pseudo) (cmd lo hi : Byte) (l : Link) (later : List LinkReply),
    (p, cmd) ∈ [(Pseudo.rdSetpoint, 0x41#8), (.rdLowLimit, 0x46#8), (.rdHighLimit, 0x47#8), (.rdActual, 0x49#8)] →
    l.incoming = .bytes [cmd, lo, hi] :: later →
    ∃ l' n w d, runAccessor p l = .done l' ∧ l'.sent = l.sent ++ [[cmd]] ∧ l'.incoming = later ∧
      l'.cfc.todo = l.cfc.todo ∧
      l'.cfc.out = { Out.undriven with st := some .ok, v16 := some (hi ++ lo), neg := some n, whole := some w,
                                       tenths := some d } ∧
      (n = 1#1 ↔ (hi ++ lo : Half).toInt < 0) ∧ w.toNat ≤ 3276 ∧ d.toNat ≤ 9 ∧
      (hi ++ lo : Half).toInt = (if n = 1#1 then -1 else 1) * (10 * (w.toNat : Int) + d.toNat)

/-- Writing a temperature parameter (R75, run as log entries 11 and 12 say): the host sends the 3-byte command, and the outcome is OK exactly on the echo
of its control byte; any other byte is CODE_MISMATCH. -/
def Obligations.TemperatureWritesEndToEnd : Prop :=
  ∀ (v : Half) (p : Pseudo) (cmd b : Byte) (l : Link) (later : List LinkReply),
    (p, cmd) ∈ [(Pseudo.wrSetpoint v, 0x61#8), (.wrLowLimit v, 0x66#8), (.wrHighLimit v, 0x67#8)] →
    l.incoming = .bytes [b] :: later →
    ∃ l', l'.sent = l.sent ++ [[cmd, v.extractLsb' 0 8, v.extractLsb' 8 8]] ∧ l'.incoming = later ∧
      runAccessor p l = if b = cmd then .done l' else .failed .codeMismatch l'

/-- Reading the faults (R75, run as log entries 11 and 12 say): a 2-byte answer with the right echo comes back as the expanded mask. -/
def Obligations.FaultReadEndToEnd : Prop :=
  ∀ (m : Byte) (l : Link) (later : List LinkReply), l.incoming = .bytes [0x48#8, m] :: later →
    ∃ l', runAccessor .rdFaults l = .done l' ∧ l'.sent = l.sent ++ [[0x48#8]] ∧ l'.incoming = later ∧
      l'.cfc.out.st = some .ok ∧ l'.cfc.out.v8 = some m ∧
      ∃ n u, l'.cfc.out.named = some n ∧ l'.cfc.out.unnamed = some u ∧ rebuildMask n u = m

/-- The first status other than OK ends a sequence of steps, and the rest is not issued (R75): whatever follows it
changes nothing. For each of the nine pseudo-operations, an answer of the expected length with another first byte ends it
with CODE_MISMATCH and the status alone, no temperature and no fault set (run as log entries 11 and 12 say). -/
def Obligations.WrongEchoEndsTheSequence : Prop :=
  (∀ (done rest : List HostStep) (l l' : Link) (st : Status), runSteps done l = .failed st l' →
    runSteps (done ++ rest) l = .failed st l') ∧
  ∀ (v : Half) (p : Pseudo) (cmd b : Byte) (n : Nat) (payload : List Byte) (l : Link) (later : List LinkReply),
    (p, cmd, n) ∈ [(Pseudo.idQuery, 0x41#8, 3), (.rdSetpoint, 0x41#8, 3), (.rdLowLimit, 0x46#8, 3),
      (.rdHighLimit, 0x47#8, 3), (.rdActual, 0x49#8, 3), (.rdFaults, 0x48#8, 2), (.wrSetpoint v, 0x61#8, 1),
      (.wrLowLimit v, 0x66#8, 1), (.wrHighLimit v, 0x67#8, 1)] →
    b ≠ cmd → (b :: payload).length = n → l.incoming = .bytes (b :: payload) :: later →
    ∃ l', runAccessor p l = .failed .codeMismatch l' ∧
      l'.cfc.out = { Out.undriven with st := some .codeMismatch }

/-- Every accessor, whatever answers and whatever stands in the state, ends: with its own result, with a status of the
block, or with Timeout or IoError of the host. It never stops the machine and never lacks an operand (R75, R206, run as
log entries 11 and 12 say). -/
def Obligations.AccessorsNeverGetStuck : Prop :=
  ∀ (p : Pseudo) (l : Link),
    (∃ l', runAccessor p l = .done l') ∨ (∃ l', runAccessor p l = .failed .codeMismatch l') ∨
    (∃ l', runAccessor p l = .hostFailed .timeout l') ∨ (∃ l', runAccessor p l = .hostFailed .ioError l')

/-- The host's errors arise in the exchange, before any decode (R206): for each of the nine pseudo-operations, no bytes or
fewer than the expected ones end it with Timeout and a failed transport with IoError, whatever bytes a later exchange would
give. The block's bundle is then that of the encode operation, OK with its frame. That the frame counts as sent and that
`R` stays as it was are the model's choices (run as log entries 11 and 12 say). -/
def Obligations.HostErrorsEndTheSequence : Prop :=
  ∀ (v : Half) (p : Pseudo) (n : Nat) (frame : List Byte) (l : Link),
    (p, n, frame) ∈ [(Pseudo.idQuery, 3, [0x41#8]), (.rdSetpoint, 3, [0x41#8]), (.rdLowLimit, 3, [0x46#8]),
      (.rdHighLimit, 3, [0x47#8]), (.rdActual, 3, [0x49#8]), (.rdFaults, 2, [0x48#8]),
      (.wrSetpoint v, 1, [0x61#8, v.extractLsb' 0 8, v.extractLsb' 8 8]),
      (.wrLowLimit v, 1, [0x66#8, v.extractLsb' 0 8, v.extractLsb' 8 8]),
      (.wrHighLimit v, 1, [0x67#8, v.extractLsb' 0 8, v.extractLsb' 8 8])] →
    ((l.incoming = [] ∨ ∃ bs later, l.incoming = .bytes bs :: later ∧ bs.length < n) →
      ∃ l', runAccessor p l = .hostFailed .timeout l' ∧ l'.cfc.out.st = some .ok ∧ frameOf l'.cfc.out = some frame ∧
        l'.sent = l.sent ++ [frame] ∧ l'.cfc.R = l.cfc.R ∧ l'.incoming = l.incoming.tail) ∧
    ((∃ later, l.incoming = .broken :: later) →
      ∃ l', runAccessor p l = .hostFailed .ioError l' ∧ l'.cfc.out.st = some .ok ∧ frameOf l'.cfc.out = some frame ∧
        l'.sent = l.sent ++ [frame] ∧ l'.cfc.R = l.cfc.R ∧ l'.incoming = l.incoming.tail)
end

