-- ==== Sys2Proof/Laws/Accessor.lean ====
section
/-! SUPPORT. What an exchange can do (R74, R206). -/

namespace Sys2Proof.Machine

@[simp] theorem nextAnswer_nil : nextAnswer [] = .bytes [] := rfl
@[simp] theorem nextAnswer_cons (a : LinkReply) (later : List LinkReply) : nextAnswer (a :: later) = a := rfl

/-- The link after an exchange that sent `f` and put nothing on the reply port. -/
def Link.afterSending (l : Link) (f : List Byte) : Link :=
  { l with sent := l.sent ++ [f], incoming := l.incoming.tail }

@[simp] theorem Link.afterSending_cfc (l : Link) (f : List Byte) : (l.afterSending f).cfc = l.cfc := rfl
@[simp] theorem Link.afterSending_lastFrame (l : Link) (f : List Byte) :
    (l.afterSending f).lastFrame = l.lastFrame := rfl
@[simp] theorem Link.afterSending_sent (l : Link) (f : List Byte) : (l.afterSending f).sent = l.sent ++ [f] := rfl
@[simp] theorem Link.afterSending_incoming (l : Link) (f : List Byte) :
    (l.afterSending f).incoming = l.incoming.tail := rfl

/-- An exchange whose answer has enough bytes puts the first `n` on the reply port. -/
theorem exchange_done {n : Nat} {l : Link} {f bs : List Byte} (hf : l.lastFrame = some f)
    (ha : nextAnswer l.incoming = .bytes bs) (hn : n ≤ bs.length) :
    exchange n l = .done { l.afterSending f with cfc := { l.cfc with R := bs.take n } } := by
  simp [exchange, hf, ha, readExact, Nat.not_lt.mpr hn, Link.afterSending]

/-- No byte or fewer than `n` are a Timeout. -/
theorem exchange_timeout {n : Nat} {l : Link} {f bs : List Byte} (hf : l.lastFrame = some f)
    (ha : nextAnswer l.incoming = .bytes bs) (hn : bs.length < n) :
    exchange n l = .hostFailed .timeout (l.afterSending f) := by
  simp [exchange, hf, ha, readExact, hn, Link.afterSending]

/-- A failed transport is an IoError. -/
theorem exchange_ioError {n : Nat} {l : Link} {f : List Byte} (hf : l.lastFrame = some f)
    (ha : nextAnswer l.incoming = .broken) : exchange n l = .hostFailed .ioError (l.afterSending f) := by
  simp [exchange, hf, ha, Link.afterSending]

end Sys2Proof.Machine
end

