-- ==== Sys2Proof/Laws/Fields.lean ====
section
/-! SUPPORT. The fields of packed words and of control bytes, and the little-endian payload. -/

namespace Sys2Proof.Machine

/-- Every bit of a packed request word (R62). -/
theorem getLsbD_packWord (op : BitVec 4) (code : Code) (hi : Hi) (imm : Half) (i : Nat) :
    (packWord op code hi imm).getLsbD i =
      if i < 4 then op.getLsbD i
      else if i < 9 then code.getLsbD (i - 4)
      else if i < 11 then hi.getLsbD (i - 9)
      else if i < 16 then false
      else imm.getLsbD (i - 16) := by
  have h1 := BitVec.getLsbD_append (x := code) (y := op) (i := i)
  have h2 := BitVec.getLsbD_append (x := hi) (y := code ++ op) (i := i)
  have h3 := BitVec.getLsbD_append (x := 0#5) (y := hi ++ (code ++ op)) (i := i)
  have h4 := BitVec.getLsbD_append (x := imm) (y := 0#5 ++ (hi ++ (code ++ op))) (i := i)
  refine h4.trans ?_
  rw [h3, h2, h1]
  simp only [BitVec.getLsbD_zero]
  split_ifs <;> first | rfl | omega

@[simp] theorem opField_packWord (op : BitVec 4) (code : Code) (hi : Hi) (imm : Half) :
    opField (packWord op code hi imm) = op := by
  ext i h
  simp only [opField, BitVec.getElem_extractLsb', getLsbD_packWord]
  simp [h]

@[simp] theorem codeField_packWord (op : BitVec 4) (code : Code) (hi : Hi) (imm : Half) :
    codeField (packWord op code hi imm) = code := by
  ext i h
  simp only [codeField, BitVec.getElem_extractLsb', getLsbD_packWord]
  simp [show 4 + i < 9 by omega, BitVec.getLsbD_eq_getElem h]

@[simp] theorem hiField_packWord (op : BitVec 4) (code : Code) (hi : Hi) (imm : Half) :
    hiField (packWord op code hi imm) = hi := by
  ext i h
  simp only [hiField, BitVec.getElem_extractLsb', getLsbD_packWord]
  simp [show ¬ 9 + i < 4 by omega, show ¬ 9 + i < 9 by omega, show 9 + i < 11 by omega, BitVec.getLsbD_eq_getElem h]

@[simp] theorem reservedField_packWord (op : BitVec 4) (code : Code) (hi : Hi) (imm : Half) :
    reservedField (packWord op code hi imm) = 0#5 := by
  ext i h
  simp only [reservedField, BitVec.getElem_extractLsb', getLsbD_packWord]
  simp [show ¬ 11 + i < 4 by omega, show ¬ 11 + i < 9 by omega, show ¬ 11 + i < 11 by omega, show 11 + i < 16 by omega]

@[simp] theorem imm16Field_packWord (op : BitVec 4) (code : Code) (hi : Hi) (imm : Half) :
    imm16Field (packWord op code hi imm) = imm := by
  ext i h
  simp only [imm16Field, BitVec.getElem_extractLsb', getLsbD_packWord]
  simp [show ¬ 16 + i < 4 by omega, show ¬ 16 + i < 9 by omega, show ¬ 16 + i < 11 by omega,
    show ¬ 16 + i < 16 by omega, BitVec.getLsbD_eq_getElem h]

/-- `cmd` and `mask` are `imm16[7:0]`, and the byte above them `imm16[15:8]` (R62). -/
theorem cmdField_eq (w : Word) : cmdField w = lowByte (imm16Field w) := by
  ext i h
  simp [cmdField, lowByte, imm16Field, show i < 16 by omega]

theorem topField_eq (w : Word) : topField w = highByte (imm16Field w) := by
  ext i h
  simp [topField, highByte, imm16Field, show 8 + i < 16 by omega, ← Nat.add_assoc]

/-- Every bit of `{hi, lo}` (R11). -/
theorem getLsbD_le16 (lo hi : Byte) (i : Nat) :
    (le16 lo hi).getLsbD i = if i < 8 then lo.getLsbD i else hi.getLsbD (i - 8) :=
  BitVec.getLsbD_append (x := hi) (y := lo) (i := i)

@[simp] theorem lowByte_le16 (lo hi : Byte) : lowByte (le16 lo hi) = lo := by
  ext i h
  simp only [lowByte, BitVec.getElem_extractLsb', getLsbD_le16]
  simp [h]

@[simp] theorem highByte_le16 (lo hi : Byte) : highByte (le16 lo hi) = hi := by
  ext i h
  simp only [highByte, BitVec.getElem_extractLsb', getLsbD_le16]
  simp [BitVec.getLsbD_eq_getElem h]

/-- Splitting a payload and putting it together again loses nothing (R41). -/
@[simp] theorem le16_bytes (v : Half) : le16 (lowByte v) (highByte v) = v := by
  ext i h
  rw [← BitVec.getLsbD_eq_getElem h, getLsbD_le16, ← BitVec.getLsbD_eq_getElem h]
  split
  · simp [lowByte, *]
  · simp [highByte, show i - 8 < 8 by omega, show 8 + (i - 8) = i by omega]

@[simp] theorem lowByte_immOfByte (b : Byte) : lowByte (immOfByte b) = b := lowByte_le16 b 0#8

@[simp] theorem highByte_immOfByte (b : Byte) : highByte (immOfByte b) = 0#8 := highByte_le16 b 0#8

/-- Every bit of a control byte (R61). -/
theorem getLsbD_controlByte (hi : Hi) (dir : BitVec 1) (code : Code) (i : Nat) :
    (controlByte hi dir code).getLsbD i =
      if i < 5 then code.getLsbD i else if i < 6 then dir.getLsbD (i - 5) else hi.getLsbD (i - 6) := by
  have h1 := BitVec.getLsbD_append (x := dir) (y := code) (i := i)
  have h2 := BitVec.getLsbD_append (x := hi) (y := dir ++ code) (i := i)
  refine h2.trans ?_
  rw [h1]
  split_ifs <;> first | rfl | omega

@[simp] theorem ctrlCode_controlByte (hi : Hi) (dir : BitVec 1) (code : Code) :
    ctrlCode (controlByte hi dir code) = code := by
  ext i h
  simp only [ctrlCode, BitVec.getElem_extractLsb', getLsbD_controlByte]
  simp [h]

@[simp] theorem ctrlDir_controlByte (hi : Hi) (dir : BitVec 1) (code : Code) :
    ctrlDir (controlByte hi dir code) = dir := by
  ext i h
  simp only [ctrlDir, BitVec.getElem_extractLsb', getLsbD_controlByte]
  simp [show ¬ 5 + i < 5 by omega, show 5 + i < 6 by omega, BitVec.getLsbD_eq_getElem h]

@[simp] theorem ctrlHi_controlByte (hi : Hi) (dir : BitVec 1) (code : Code) :
    ctrlHi (controlByte hi dir code) = hi := by
  ext i h
  simp only [ctrlHi, BitVec.getElem_extractLsb', getLsbD_controlByte]
  simp [show ¬ 6 + i < 5 by omega, show ¬ 6 + i < 6 by omega, BitVec.getLsbD_eq_getElem h]

/-- A control byte is the packing of its fields (R61). -/
theorem controlByte_fields (c : Byte) : controlByte (ctrlHi c) (ctrlDir c) (ctrlCode c) = c := by
  ext i h
  rw [← BitVec.getLsbD_eq_getElem h, getLsbD_controlByte, ← BitVec.getLsbD_eq_getElem h]
  split_ifs with h1 h2
  · simp [ctrlCode, h1]
  · simp [ctrlDir, show i = 5 by omega]
  · simp [ctrlHi, show i - 6 < 2 by omega, show 6 + (i - 6) = i by omega]

/-- A word is the packing of its fields when its reserved bits are 0 (R62). -/
theorem packWord_fields (w : Word) (h : reservedField w = 0#5) :
    packWord (opField w) (codeField w) (hiField w) (imm16Field w) = w := by
  ext i hi
  rw [← BitVec.getLsbD_eq_getElem hi, getLsbD_packWord, ← BitVec.getLsbD_eq_getElem hi]
  split_ifs with h1 h2 h3 h4
  · simp [opField, h1]
  · simp [codeField, show i - 4 < 5 by omega, show 4 + (i - 4) = i by omega]
  · simp [hiField, show i - 9 < 2 by omega, show 9 + (i - 9) = i by omega]
  · have hr := congrArg (fun b => b.getLsbD (i - 11)) h
    simpa [reservedField, show i - 11 < 5 by omega, show 11 + (i - 11) = i by omega] using hr.symm
  · simp [imm16Field, show i - 16 < 16 by omega, show 16 + (i - 16) = i by omega]

/-- A reply frame is 1, 2 or 3 bytes (R7). -/
theorem replyFrameLength_range (w : PayloadWidth) : 1 ≤ replyFrameLength w ∧ replyFrameLength w ≤ 3 := by
  unfold replyFrameLength; omega

end Sys2Proof.Machine
end

