-- ==== Sys2Proof/Laws/State.lean ====
section
/-! SUPPORT. One lemma per field per update of the state. -/

namespace Sys2Proof.Machine

@[simp] theorem drive_W (o : Out) (s : State) : (drive o s).W = s.W := rfl
@[simp] theorem drive_R (o : Out) (s : State) : (drive o s).R = s.R := rfl
@[simp] theorem drive_out (o : Out) (s : State) : (drive o s).out = o := rfl
@[simp] theorem drive_todo (o : Out) (s : State) : (drive o s).todo = s.todo := rfl

@[simp] theorem raise_W (st : Status) (s : State) : (raise st s).W = s.W := rfl
@[simp] theorem raise_R (st : Status) (s : State) : (raise st s).R = s.R := rfl
@[simp] theorem raise_out (st : Status) (s : State) : (raise st s).out = statusOnly st := rfl
@[simp] theorem raise_todo (st : Status) (s : State) : (raise st s).todo = s.todo := rfl

@[simp] theorem present_R (p : Presentation) (rest : List Presentation) (s : State) :
    (present p rest s).R = p.reply := by
  cases p with | mk what reply => cases what <;> rfl

@[simp] theorem present_out (p : Presentation) (rest : List Presentation) (s : State) :
    (present p rest s).out = s.out := by
  cases p with | mk what reply => cases what <;> rfl

@[simp] theorem present_todo (p : Presentation) (rest : List Presentation) (s : State) :
    (present p rest s).todo = rest := by
  cases p with | mk what reply => cases what <;> rfl

/-- A request word comes to the port `W`; a command frame leaves it. -/
@[simp] theorem present_W_word (w : Word) (r : List Byte) (rest : List Presentation) (s : State) :
    (present ⟨.word w, r⟩ rest s).W = w := rfl

@[simp] theorem present_W_frame (bs r : List Byte) (rest : List Presentation) (s : State) :
    (present ⟨.frame bs, r⟩ rest s).W = s.W := rfl

@[simp] theorem statusOnly_st (st : Status) : (statusOnly st).st = some st := rfl

@[simp] theorem reset_out : State.reset.out = Out.undriven := rfl
@[simp] theorem reset_todo : State.reset.todo = [] := rfl

end Sys2Proof.Machine
end

