-- ==== Sys2Proof/Laws/Ops.lean ====
section
/-! SUPPORT. What each shared operation can do, and what an operation can do: it answers a next state in which only the
result bundle has changed (R20, R24). -/

namespace Sys2Proof.Machine

/-- The check passes exactly on a reply of the right length with the right echo (R120). -/
theorem check_ok {n : Nat} {cmd : Byte} {r : List Byte} :
    check n cmd r = .ok ↔ r.length = n ∧ replyByte r 0 = cmd := by
  unfold check
  split_ifs with h1 h2 <;> simp_all

theorem check_lengthMismatch {n : Nat} {cmd : Byte} {r : List Byte} :
    check n cmd r = .lengthMismatch ↔ r.length ≠ n := by
  unfold check
  split_ifs with h1 h2 <;> simp_all

/-- The echo is compared only on a reply of the right length (R120, R201). -/
theorem check_codeMismatch {n : Nat} {cmd : Byte} {r : List Byte} :
    check n cmd r = .codeMismatch ↔ r.length = n ∧ replyByte r 0 ≠ cmd := by
  unfold check
  split_ifs with h1 h2 <;> simp_all

theorem check_ne_illegalOp (n : Nat) (cmd : Byte) (r : List Byte) : check n cmd r ≠ .illegalOp := by
  unfold check
  split_ifs <;> simp

/-- The three ways a decode operation ends (R120). -/
theorem replyOutcome_cases (n : Nat) (cmd : Byte) (o : Out) (s : State) :
    (s.R.length = n ∧ replyByte s.R 0 = cmd ∧ replyOutcome n cmd o s = .next (drive o s)) ∨
    (s.R.length ≠ n ∧ replyOutcome n cmd o s = .next (raise .lengthMismatch s)) ∨
    (s.R.length = n ∧ replyByte s.R 0 ≠ cmd ∧ replyOutcome n cmd o s = .next (raise .codeMismatch s)) := by
  unfold replyOutcome
  cases h : check n cmd s.R
  · exact .inl ⟨(check_ok.1 h).1, (check_ok.1 h).2, rfl⟩
  · exact .inr (.inl ⟨check_lengthMismatch.1 h, rfl⟩)
  · exact .inr (.inr ⟨(check_codeMismatch.1 h).1, (check_codeMismatch.1 h).2, rfl⟩)
  · exact absurd h (check_ne_illegalOp _ _ _)

/-- The bundle a decode operation drives depends on the reply alone. -/
theorem replyOutcome_eq (n : Nat) (cmd : Byte) (o : Out) (s : State) :
    replyOutcome n cmd o s = .next (drive (if check n cmd s.R = .ok then o else statusOnly (check n cmd s.R)) s) := by
  unfold replyOutcome
  cases check n cmd s.R <;> rfl

/-- The bundle an operation drives, as a function of the reply on the port (R20). -/
def resultOf (i : Instr) (r : List Byte) : Out :=
  match i with
  | .encRd code hi => readFrameOut hi code
  | .encWr16 code imm16 hi => writeFrameOut hi code imm16
  | .decR16 cmd => if check 3 cmd r = .ok then value16Out (replyPayload16 r) else statusOnly (check 3 cmd r)
  | .decR8 cmd => if check 2 cmd r = .ok then value8Out (replyPayload8 r) else statusOnly (check 2 cmd r)
  | .decAck cmd => statusOnly (check 1 cmd r)
  | .tempDec imm16 => temperatureOut imm16
  | .tempEnc imm16 => value16Out imm16
  | .faultUnpack mask => faultOut mask
  | .wireRead code hi => readFrameOut hi code
  | .wireWrite16 code payload hi => writeFrameOut hi code payload

/-- Every operation answers, and drives its bundle and nothing else. -/
theorem exec_eq (i : Instr) (s : State) : exec i s = .next (drive (resultOf i s.R) s) := by
  cases i with
  | decR16 cmd => exact replyOutcome_eq 3 cmd _ s
  | decR8 cmd => exact replyOutcome_eq 2 cmd _ s
  | decAck cmd =>
    refine (replyOutcome_eq 1 cmd _ s).trans ?_
    by_cases h : check 1 cmd s.R = .ok <;> simp [resultOf, h]
  | _ => rfl

end Sys2Proof.Machine
end

