-- ==== Sys2Proof/Laws/PerInstr.lean ====
section
/-! SUPPORT. Per instruction: the encoding the encoder writes is well-formed, so it matches a row of the opcode table or
is a command frame of the right length (R62, R67, R76). -/

namespace Sys2Proof.Laws.EncodingWellFormed

open Sys2Proof.Machine

def Statement (i : Instr) : Prop := (encode i).wellFormed = true

/-- A word matches a row when the bits under the row's mask are the row's (R76). -/
theorem rowMatches_of_bits {row : OpcodeRow} {w : Word}
    (h : ∀ k < 32, (w.getLsbD k && row.mask.getLsbD k) = row.matchBits.getLsbD k) : rowMatches row w = true := by
  simp only [rowMatches, beq_iff_eq]
  ext k hk
  simpa only [BitVec.getElem_and, BitVec.getLsbD_eq_getElem hk] using h k hk

theorem wellFormed_of_row {row : OpcodeRow} {w : Word} (hr : row ∈ opcodeRows) (h : rowMatches row w = true) :
    (Encoding.word w).wellFormed = true :=
  List.any_eq_true.2 ⟨row, hr, h⟩

theorem getLsbD_immOfByte (b : Byte) (i : Nat) :
    (immOfByte b).getLsbD i = (decide (i < 8) && b.getLsbD i) := by
  refine (getLsbD_le16 b 0#8 i).trans ?_
  split <;> simp_all

/-- ENC.RD: everything but `hi` and `code` is fixed. -/
theorem encRd (code : Code) (hi : Hi) : Statement (.encRd code hi) := by
  refine wellFormed_of_row (row := ⟨"ENC.RD", 0x00000001#32, 0xFFFFF80F#32⟩) (by simp [opcodeRows]) ?_
  refine rowMatches_of_bits fun k hk => ?_
  rw [getLsbD_packWord]
  interval_cases k <;> simp

/-- ENC.WR16: the immediate is free too. -/
theorem encWr16 (code : Code) (imm16 : Half) (hi : Hi) : Statement (.encWr16 code imm16 hi) := by
  refine wellFormed_of_row (row := ⟨"ENC.WR16", 0x00000002#32, 0x0000F80F#32⟩) (by simp [opcodeRows]) ?_
  refine rowMatches_of_bits fun k hk => ?_
  rw [getLsbD_packWord]
  interval_cases k <;> simp

/-- An operation whose only operand is the byte `W[23:16]`. -/
theorem byteOperand (row : OpcodeRow) (op : BitVec 4) (b : Byte) (hr : row ∈ opcodeRows)
    (hm : row.mask = 0xFF00FFFF#32) (hv : row.matchBits = op.setWidth 32) :
    (Encoding.word (packWord op 0#5 0#2 (immOfByte b))).wellFormed = true := by
  refine wellFormed_of_row hr (rowMatches_of_bits fun k hk => ?_)
  rw [hm, hv, BitVec.getLsbD_setWidth, getLsbD_packWord, getLsbD_immOfByte]
  interval_cases k <;> simp

/-- An operation whose only operand is `W[31:16]`. -/
theorem halfOperand (row : OpcodeRow) (op : BitVec 4) (v : Half) (hr : row ∈ opcodeRows)
    (hm : row.mask = 0x0000FFFF#32) (hv : row.matchBits = op.setWidth 32) :
    (Encoding.word (packWord op 0#5 0#2 v)).wellFormed = true := by
  refine wellFormed_of_row hr (rowMatches_of_bits fun k hk => ?_)
  rw [hm, hv, BitVec.getLsbD_setWidth, getLsbD_packWord]
  interval_cases k <;> simp

theorem decR16 (cmd : Byte) : Statement (.decR16 cmd) :=
  byteOperand ⟨"DEC.R16", 0x00000003#32, 0xFF00FFFF#32⟩ 0x3#4 cmd (by simp [opcodeRows]) rfl rfl

theorem decR8 (cmd : Byte) : Statement (.decR8 cmd) :=
  byteOperand ⟨"DEC.R8", 0x00000004#32, 0xFF00FFFF#32⟩ 0x4#4 cmd (by simp [opcodeRows]) rfl rfl

theorem decAck (cmd : Byte) : Statement (.decAck cmd) :=
  byteOperand ⟨"DEC.ACK", 0x00000005#32, 0xFF00FFFF#32⟩ 0x5#4 cmd (by simp [opcodeRows]) rfl rfl

theorem tempDec (imm16 : Half) : Statement (.tempDec imm16) :=
  halfOperand ⟨"TEMP.DEC", 0x00000006#32, 0x0000FFFF#32⟩ 0x6#4 imm16 (by simp [opcodeRows]) rfl rfl

theorem tempEnc (imm16 : Half) : Statement (.tempEnc imm16) :=
  halfOperand ⟨"TEMP.ENC", 0x00000007#32, 0x0000FFFF#32⟩ 0x7#4 imm16 (by simp [opcodeRows]) rfl rfl

theorem faultUnpack (mask : Byte) : Statement (.faultUnpack mask) :=
  byteOperand ⟨"FAULT.UNPACK", 0x00000008#32, 0xFF00FFFF#32⟩ 0x8#4 mask (by simp [opcodeRows]) rfl rfl

theorem wireRead (code : Code) (hi : Hi) : Statement (.wireRead code hi) := by
  simp [Statement, encode, Encoding.wellFormed]

theorem wireWrite16 (code : Code) (payload : Half) (hi : Hi) : Statement (.wireWrite16 code payload hi) := by
  simp [Statement, encode, Encoding.wellFormed]

end Sys2Proof.Laws.EncodingWellFormed
end

