-- ==== Sys2Proof/Laws/Step.lean ====
section
/-! SUPPORT. What a step can do. -/

namespace Sys2Proof.Machine

/-- With nothing presented nothing changes. -/
theorem step_idle {s : State} (h : s.todo = []) : step s = .next s := by
  simp [step, h]

/-- A step presents the first operation and gives its result. -/
theorem step_present {s : State} {p : Presentation} {rest : List Presentation} (h : s.todo = p :: rest) :
    step s = operate p.what (present p rest s) := by
  simp [step, h]

theorem operate_decoded {e : Encoding} {i : Instr} (h : decode e = .ok i) (s : State) : operate e s = exec i s := by
  simp [operate, h]

theorem operate_rejected {e : Encoding} {r : Reject} (h : decode e = .error r) (s : State) :
    operate e s = rejected e s := by
  simp [operate, h]

/-- A run goes on from where a step leads. -/
theorem run_next {s t : State} (h : step s = .next t) (k : Nat) :
    Host.Core.run core (k + 1) s = Host.Core.run core k t := by
  refine (Host.Core.run.eq_def core (k + 1) s).trans ?_
  have h' : core.step s = .next t := h
  simp only [h']

/-- The ways a step can end: idle, an operation, an illegal request word, no command frame. -/
theorem step_cases (s : State) :
    (s.todo = [] ∧ step s = .next s) ∨
    ∃ p rest, s.todo = p :: rest ∧
      ((∃ i, decode p.what = .ok i ∧ step s = .next (drive (resultOf i p.reply) (present p rest s))) ∨
       (∃ r w, decode p.what = .error r ∧ p.what = .word w ∧ step s = .next (raise .illegalOp (present p rest s))) ∨
       (∃ r bs, decode p.what = .error r ∧ p.what = .frame bs ∧ step s = .fault .malformedFrame)) := by
  cases ht : s.todo with
  | nil => exact .inl ⟨rfl, step_idle ht⟩
  | cons p rest =>
    refine .inr ⟨p, rest, rfl, ?_⟩
    rw [step_present ht]
    cases hd : decode p.what with
    | ok i => exact .inl ⟨i, rfl, by rw [operate_decoded hd, exec_eq, present_R]⟩
    | error r =>
      rw [operate_rejected hd]
      cases hw : p.what with
      | word w => exact .inr (.inl ⟨r, w, rfl, rfl, rfl⟩)
      | frame bs => exact .inr (.inr ⟨r, bs, rfl, rfl, rfl⟩)

end Sys2Proof.Machine
end

