-- ==== Sys2Proof/Tests/Slice0.lean ====
section
/-! SUPPORT. Tests and witnesses. Every expected result is a row of 95_test_vectors.md or a word written out from the
encoding pattern of the operation's rule; none is the model's own answer. -/

namespace Sys2Proof.Tests

open Sys2Proof.Machine

/-- The state in which the host presents one request word with a reply. -/
def presenting (w : Word) (r : List Byte) : State := { State.reset with todo := [⟨.word w, r⟩] }

/-- The same for a command frame on the wire. -/
def presentingFrame (bs : List Byte) : State := { State.reset with todo := [⟨.frame bs, []⟩] }

/-- A state with a reply on the reply port. -/
def withReply (r : List Byte) : State := { State.reset with R := r }

/-- A link on which one answer arrives. -/
def answered (bs : List Byte) : Link := ⟨State.reset, none, [], [.bytes bs]⟩

/-- A link whose reply port holds a one-byte reply that is not the echo of 0x61. -/
def wrongAcknowledge : Link := ⟨withReply [0x41#8], none, [], []⟩

/-- The bundle after one step. -/
def bundle (s : State) : Option Out :=
  match step s with
  | .next t => some t.out
  | .fault _ => none
  | .refused _ => none

/-- The bundle of an error. -/
def only (st : Status) : Option Out := some { Out.undriven with st := some st }

/-! Well-formedness refuses what is ill-formed: one smoke test for each check. -/

theorem test_wellFormed_every_instruction_form :
    (Instr.encWr16 31#5 0xFFFF#16 3#2).wellFormed = true ∧ (Instr.decAck 0#8).wellFormed = true := by decide

theorem test_illFormed_reserved_op_0 : (Encoding.word 0x00000000#32).wellFormed = false := by decide
theorem test_illFormed_reserved_op_9 : (Encoding.word 0x00000009#32).wellFormed = false := by decide
theorem test_illFormed_reserved_op_15 : (Encoding.word 0x0000000F#32).wellFormed = false := by decide
theorem test_illFormed_encRd_imm : (Encoding.word 0x00010211#32).wellFormed = false := by decide
theorem test_illFormed_encRd_reserved_bit : (Encoding.word 0x00000A11#32).wellFormed = false := by decide
theorem test_illFormed_encWr16_reserved_bit : (Encoding.word 0x00FA8212#32).wellFormed = false := by decide
theorem test_illFormed_decR16_top : (Encoding.word 0x01490003#32).wellFormed = false := by decide
theorem test_illFormed_decR16_code : (Encoding.word 0x00490013#32).wellFormed = false := by decide
theorem test_illFormed_tempDec_bit4 : (Encoding.word 0x00FA0016#32).wellFormed = false := by decide
theorem test_illFormed_faultUnpack_top : (Encoding.word 0x01210008#32).wellFormed = false := by decide
theorem test_illFormed_frame_empty : (Encoding.frame []).wellFormed = false := by decide
theorem test_illFormed_frame_write_too_short : (Encoding.frame [0x61#8]).wellFormed = false := by decide
theorem test_illFormed_frame_read_too_long :
    (Encoding.frame [0x41#8, 0x00#8, 0x00#8]).wellFormed = false := by decide
theorem test_illFormed_frame_two_bytes : (Encoding.frame [0x61#8, 0x00#8]).wellFormed = false := by decide

/-! Decoding: every constructor from a word written out bit by bit. -/

theorem test_decode_encRd : decode (.word 0b0000000000000000_00000_10_11111_0001#32) = .ok (.encRd 31#5 0b10#2) := by
  decide
theorem test_decode_encWr16 :
    decode (.word 0b1000000000000001_00000_11_00110_0010#32) = .ok (.encWr16 6#5 0x8001#16 0b11#2) := by decide
theorem test_decode_decR16 : decode (.word 0b00000000_10000001_000000000000_0011#32) = .ok (.decR16 0x81#8) := by decide
theorem test_decode_decR8 : decode (.word 0b00000000_10000001_000000000000_0100#32) = .ok (.decR8 0x81#8) := by decide
theorem test_decode_decAck : decode (.word 0b00000000_10000001_000000000000_0101#32) = .ok (.decAck 0x81#8) := by decide
theorem test_decode_tempDec : decode (.word 0b1000000000000001_000000000000_0110#32) = .ok (.tempDec 0x8001#16) := by
  decide
theorem test_decode_tempEnc : decode (.word 0b1000000000000001_000000000000_0111#32) = .ok (.tempEnc 0x8001#16) := by
  decide
theorem test_decode_faultUnpack :
    decode (.word 0b00000000_10000001_000000000000_1000#32) = .ok (.faultUnpack 0x81#8) := by decide
theorem test_decode_wireRead : decodeTableWord 8 0b10_0_00101 = some (.wireRead 5#5 0b10#2) := by decide
theorem test_decode_wireWrite16 : decodeTableWord 8 0b11_1_00111 = some (.wireWrite16 7#5 0#16 0b11#2) := by decide

/-! One step each, from the vectors of 95_test_vectors.md. -/

theorem test_encRd_alternate : bundle (presenting 0x00000661#32 []) =
    some { Out.undriven with st := some .ok, flen := some 1#2, F0 := some 0xC6#8 } := by decide
theorem test_encWr16_minus_3000 : bundle (presenting 0xF4480262#32 []) =
    some { Out.undriven with st := some .ok, flen := some 3#2, F0 := some 0x66#8, F1 := some 0x48#8,
                             F2 := some 0xF4#8 } := by decide
theorem test_decR16_minimum : bundle (presenting 0x00490003#32 [0x49#8, 0x00#8, 0x80#8]) =
    some { Out.undriven with st := some .ok, v16 := some 0x8000#16 } := by decide
theorem test_decR16_length_before_echo :
    bundle (presenting 0x00490003#32 [0x4A#8, 0x10#8]) = only .lengthMismatch := by decide
theorem test_decR8_unsigned : bundle (presenting 0x00480004#32 [0x48#8, 0xFF#8]) =
    some { Out.undriven with st := some .ok, v8 := some 0xFF#8 } := by decide
theorem test_decR8_wrong_echo : bundle (presenting 0x00480004#32 [0x49#8, 0x21#8]) = only .codeMismatch := by decide
theorem test_decAck_accepts : bundle (presenting 0x00610005#32 [0x61#8]) = only .ok := by decide
theorem test_decAck_full_frame_is_no_ack :
    bundle (presenting 0x00610005#32 [0x61#8, 0xFA#8, 0x00#8]) = only .lengthMismatch := by decide
theorem test_tempDec_minimum : bundle (presenting 0x80000006#32 []) =
    some { Out.undriven with st := some .ok, v16 := some 0x8000#16, neg := some 1#1, whole := some 3276#12,
                             tenths := some 8#4 } := by decide
theorem test_tempDec_minus_half_degree : bundle (presenting 0xFFFB0006#32 []) =
    some { Out.undriven with st := some .ok, v16 := some 0xFFFB#16, neg := some 1#1, whole := some 0#12,
                             tenths := some 5#4 } := by decide
theorem test_tempEnc_no_clamp : bundle (presenting 0x75300007#32 []) =
    some { Out.undriven with st := some .ok, v16 := some 30000#16 } := by decide
theorem test_faultUnpack_two_named : bundle (presenting 0x00210008#32 []) =
    some { Out.undriven with st := some .ok, v8 := some 0x21#8, named := some 0b01001#5, unnamed := some 0x00#8,
                             nofault := some 0#1, count := some 2#4 } := by decide
theorem test_faultUnpack_all : bundle (presenting 0x00FF0008#32 []) =
    some { Out.undriven with st := some .ok, v8 := some 0xFF#8, named := some 0b11111#5, unnamed := some 0x4A#8,
                             nofault := some 0#1, count := some 8#4 } := by decide
theorem test_faultSet_example : faultSet 0x21#8 = [(0, .tankLevelLow), (5, .pumpFault)] := by decide
theorem test_wireRead_from_reset : bundle (State.reset.withFetchWord 8 0x46) =
    some { Out.undriven with st := some .ok, flen := some 1#2, F0 := some 0x46#8 } := by decide
theorem test_wireWrite16_frame : bundle (presentingFrame [0xE6#8, 0x9C#8, 0xFF#8]) =
    some { Out.undriven with st := some .ok, flen := some 3#2, F0 := some 0xE6#8, F1 := some 0x9C#8,
                             F2 := some 0xFF#8 } := by decide
theorem test_illegal_word_before_reply :
    bundle (presenting 0x01490003#32 [0x49#8, 0xFA#8, 0x00#8]) = only .illegalOp := by decide

/-! The assembler: words of 95_test_vectors.md. -/

theorem test_assemble_default_hi :
    assembleText ["ENC.RD 9".toList, "; a comment".toList, "ENC.WR16 6, -3000, 0b11 ; alternate".toList] =
      .ok [.word 0x00000291#32, .word 0xF4480662#32] := by decide
theorem test_assemble_hex_and_cmd :
    assembleText ["TEMP.ENC 0xFFFB".toList, "DEC.R16 0x49".toList] = .ok [.word 0xFFFB0007#32, .word 0x00490003#32] := by
  decide
theorem test_assemble_out_of_range : assembleText ["ENC.RD 32".toList] = .error .outOfRange := by decide
theorem test_assemble_imm_out_of_range : assembleText ["TEMP.DEC 32768".toList] = .error .outOfRange := by decide
/-- Of two lines in error the first one's error stands, whichever stage finds it (log entry 10). -/
theorem test_assemble_first_error :
    assembleText ["ENC.RD 32".toList, "FOO".toList] = .error .outOfRange ∧
      assembleText ["FOO".toList, "ENC.RD 32".toList] = .error .unknownMnemonic := by decide
theorem test_assemble_unknown_mnemonic : assembleText ["ENC.WR8 1".toList] = .error .unknownMnemonic := by decide

/-! Witnesses: for each statement with hypotheses, states and operands that meet them together, at the boundary values
of each clause. -/

theorem witness_DecodedEncodingIsTheOnlyOne :
    decode (.word 0x000007F1#32) = .ok (.encRd 31#5 3#2) ∧
      decode (.frame [0xFF#8, 0xFF#8, 0xFF#8]) = .ok (.wireWrite16 31#5 0xFFFF#16 3#2) := by decide

/-- A word that no row matches, words that rows match, and a pair of rows that a word matches together. -/
theorem witness_RequestWordIsTheRowItMatches :
    (∀ row ∈ opcodeRows, 0x0000000F#32 &&& row.mask ≠ row.matchBits) ∧
      (∀ row ∈ opcodeRows, row.matchBits &&& row.mask = row.matchBits) ∧
      (0xC0#8 &&& 0x20#8 = 0x00#8) ∧ (0xFF#8 &&& 0x20#8 = 0x20#8) := by decide

/-- A word for each must-be-zero clause, at its lowest and highest bit. -/
theorem witness_RequestWordIsOneOperationOrIllegal :
    ((0x00000801#32).extractLsb' 11 5 ≠ 0#5 ∧ (0x00008002#32).extractLsb' 11 5 ≠ 0#5) ∧
      ((0x00000013#32).extractLsb' 0 4 ≠ 0x1#4 ∧ (0x00000013#32).extractLsb' 0 4 ≠ 0x2#4 ∧
        (0x00000013#32).extractLsb' 4 7 ≠ 0#7 ∧ (0x00000408#32).extractLsb' 4 7 ≠ 0#7) ∧
      ((0x00010001#32).extractLsb' 0 4 = 0x1#4 ∧ (0x00010001#32).extractLsb' 16 16 ≠ 0#16) ∧
      ((0x01000003#32).extractLsb' 0 4 ∈ [0x3#4, 0x4#4, 0x5#4, 0x8#4] ∧ (0x80000008#32).extractLsb' 24 8 ≠ 0#8 ∧
        (0x01000003#32).extractLsb' 24 8 ≠ 0#8) := by decide

theorem witness_ReservedOperationsEndIllegal :
    (0x00000000#32).extractLsb' 0 4 = 0x0#4 ∧ 9 ≤ ((0x00000009#32).extractLsb' 0 4).toNat ∧
      9 ≤ ((0xFFFFFFFF#32).extractLsb' 0 4).toNat := by decide

/-- The hypothesis of EndsIllegal and RunsAs: a state that presents the word. -/
theorem witness_presented_word :
    (presenting 0x00000000#32 [0x41#8]).todo = ⟨.word 0x00000000#32, [0x41#8]⟩ :: [] := by decide

theorem witness_StepRunsTheDecodedInstruction :
    (presenting 0x00490003#32 [0x49#8]).todo = ⟨.word 0x00490003#32, [0x49#8]⟩ :: [] ∧
      decode (.word 0x00490003#32) = .ok (.decR16 0x49#8) ∧
      (presentingFrame [0x41#8]).todo = ⟨.frame [0x41#8], []⟩ :: [] ∧
      decode (.frame [0x41#8]) = .ok (.wireRead 1#5 1#2) := by decide

theorem witness_TableWordRunsFirst :
    decodeTableWord 32 0xFF0008 = some (.faultUnpack 0xFF#8) ∧
      decodeTableWord 8 0x00 = some (.wireRead 0#5 0#2) ∧ decodeTableWord 8 0xFF = some (.wireWrite16 31#5 0#16 3#2) := by
  decide

theorem witness_NothingPresentedChangesNothing : State.reset.todo = [] := by decide

theorem witness_EncRdBuildsReadFrame :
    (0x000007F1#32).extractLsb' 0 4 = 0x1#4 ∧ (0x000007F1#32).extractLsb' 11 5 = 0#5 ∧
      (0x000007F1#32).extractLsb' 16 16 = 0#16 ∧
      ((0x00000A11#32).extractLsb' 0 4 = 0x1#4 ∧
        ¬((0x00000A11#32).extractLsb' 11 5 = 0#5 ∧ (0x00000A11#32).extractLsb' 16 16 = 0#16)) := by decide

theorem witness_EncWr16BuildsWriteFrame :
    (0xFFFF0212#32).extractLsb' 0 4 = 0x2#4 ∧ (0xFFFF0212#32).extractLsb' 11 5 = 0#5 ∧
      (0x00FA8212#32).extractLsb' 0 4 = 0x2#4 ∧ (0x00FA8212#32).extractLsb' 11 5 ≠ 0#5 := by decide

theorem witness_DecR16ReadsSixteenBits :
    (withReply [0x49#8, 0x00#8, 0x80#8]).R = [0x49#8, 0x00#8, 0x80#8] ∧ (withReply []).R.length ≠ 3 ∧
      (withReply [0x49#8, 0#8, 0#8, 0#8]).R.length ≠ 3 ∧
      ((withReply [0xC9#8, 0x10#8, 0x00#8]).R = [0xC9#8, 0x10#8, 0x00#8] ∧ 0xC9#8 ≠ 0x49#8) ∧
      ((0x00490003#32).extractLsb' 0 4 = 0x3#4 ∧ (0x00490003#32).extractLsb' 4 12 = 0#12 ∧
        (0x00490003#32).extractLsb' 24 8 = 0#8) ∧
      ((0x01490003#32).extractLsb' 0 4 = 0x3#4 ∧
        ¬((0x01490003#32).extractLsb' 4 12 = 0#12 ∧ (0x01490003#32).extractLsb' 24 8 = 0#8)) := by decide

theorem witness_DecR8ReadsEightBits :
    (withReply [0x48#8, 0xFF#8]).R = [0x48#8, 0xFF#8] ∧ (withReply [0x48#8]).R.length ≠ 2 ∧
      (withReply [0x48#8, 0x21#8, 0x00#8]).R.length ≠ 2 ∧
      ((withReply [0x49#8, 0x21#8]).R = [0x49#8, 0x21#8] ∧ 0x49#8 ≠ 0x48#8) ∧
      ((0x00480004#32).extractLsb' 0 4 = 0x4#4 ∧ (0x00480004#32).extractLsb' 4 12 = 0#12 ∧
        (0x00480004#32).extractLsb' 24 8 = 0#8) ∧
      ((0x00480014#32).extractLsb' 0 4 = 0x4#4 ∧
        ¬((0x00480014#32).extractLsb' 4 12 = 0#12 ∧ (0x00480014#32).extractLsb' 24 8 = 0#8)) := by decide

theorem witness_DecAckAcceptsTheEcho :
    (withReply [0x61#8]).R = [0x61#8] ∧ (withReply []).R.length ≠ 1 ∧
      (withReply [0x61#8, 0xFA#8]).R.length ≠ 1 ∧
      ((withReply [0x41#8]).R = [0x41#8] ∧ 0x41#8 ≠ 0x61#8) ∧
      ((0x00610005#32).extractLsb' 0 4 = 0x5#4 ∧ (0x00610005#32).extractLsb' 4 12 = 0#12 ∧
        (0x00610005#32).extractLsb' 24 8 = 0#8) ∧
      ((0x80610005#32).extractLsb' 0 4 = 0x5#4 ∧
        ¬((0x80610005#32).extractLsb' 4 12 = 0#12 ∧ (0x80610005#32).extractLsb' 24 8 = 0#8)) := by decide

theorem witness_TempDecSplitsTheReading :
    (0x80000006#32).extractLsb' 0 4 = 0x6#4 ∧ (0x80000006#32).extractLsb' 4 12 = 0#12 ∧
      (0x00FA0016#32).extractLsb' 0 4 = 0x6#4 ∧ (0x00FA0016#32).extractLsb' 4 12 ≠ 0#12 := by decide

theorem witness_TempEncPassesThrough :
    (0x7FFF0007#32).extractLsb' 0 4 = 0x7#4 ∧ (0x7FFF0007#32).extractLsb' 4 12 = 0#12 ∧
      (0x00008007#32).extractLsb' 0 4 = 0x7#4 ∧ (0x00008007#32).extractLsb' 4 12 ≠ 0#12 := by decide

theorem witness_FaultUnpackExpandsTheMask :
    (0x00FF0008#32).extractLsb' 0 4 = 0x8#4 ∧ (0x00FF0008#32).extractLsb' 4 12 = 0#12 ∧
      (0x00FF0008#32).extractLsb' 24 8 = 0#8 ∧ (0x01210008#32).extractLsb' 0 4 = 0x8#4 ∧
      ¬((0x01210008#32).extractLsb' 4 12 = 0#12 ∧ (0x01210008#32).extractLsb' 24 8 = 0#8) := by decide

theorem witness_WireFramesHaveTheirRulesResult :
    ((presentingFrame [0xDF#8]).todo = ⟨.frame [0xDF#8], []⟩ :: [] ∧ (0xDF#8).getLsbD 5 = false) ∧
      ((presentingFrame [0x20#8, 0xFF#8, 0x80#8]).todo = ⟨.frame [0x20#8, 0xFF#8, 0x80#8], []⟩ :: [] ∧
        (0x20#8).getLsbD 5 = true) := by decide

/-- The next states that EncodedFramesKeepTheirFields, WriteFrameRoundTrips, PayloadsAreLittleEndian and
DocumentedControlBytesAreBuilt start from. -/
theorem witness_encode_operations_answer :
    (∃ t, exec (.encRd 31#5 3#2) State.reset = .next t) ∧ (∃ t, exec (.encWr16 31#5 0x8001#16 0#2) State.reset = .next t) ∧
      (∃ t, exec (.encRd 6#5 0b01#2) State.reset = .next t) ∧ (∃ t, exec (.encRd 6#5 0b11#2) State.reset = .next t) ∧
      (∃ t, exec (.encWr16 7#5 100#16 0b01#2) State.reset = .next t) ∧
      (∃ t, exec (.encWr16 7#5 100#16 0b11#2) State.reset = .next t) :=
  ⟨⟨_, rfl⟩, ⟨_, rfl⟩, ⟨_, rfl⟩, ⟨_, rfl⟩, ⟨_, rfl⟩, ⟨_, rfl⟩⟩

/-- The rows of DocumentedControlBytesAreBuilt, of both kinds. -/
theorem witness_DocumentedControlBytesAreBuilt :
    (⟨0x48#8, 1, some .r8⟩ : ControlRow) ∈ controlTable ∧ (0x48#8).getLsbD 7 = false ∧
      (⟨0xE7#8, 3, none⟩ : ControlRow) ∈ controlTable ∧ (0xE7#8).getLsbD 7 = true := by decide

theorem witness_PayloadsAreLittleEndian :
    (withReply [0x49#8, 0x34#8, 0x12#8]).R = [0x49#8, 0x34#8, 0x12#8] ∧
      ∃ t, exec (.decR16 0x49#8) (withReply [0x49#8, 0x34#8, 0x12#8]) = .next t := ⟨rfl, _, rfl⟩

/-- The three operations of ReplyChecksRunInOrder and DecodeOperationsAlwaysEnd, each with a state that presents it. -/
theorem witness_ReplyChecksRunInOrder :
    ((presenting 0x00490003#32 []).todo = ⟨.word 0x00490003#32, []⟩ :: [] ∧
        ((0x00490003#32).extractLsb' 0 4 = 0x3#4 ∧ (3 : Nat) = 3)) ∧
      ((presenting 0x00480004#32 [0x49#8, 0x21#8]).todo = ⟨.word 0x00480004#32, [0x49#8, 0x21#8]⟩ :: [] ∧
        (0x00480004#32).extractLsb' 0 4 = 0x4#4) ∧
      ((presenting 0xFFFFFFF5#32 [0x61#8]).todo = ⟨.word 0xFFFFFFF5#32, [0x61#8]⟩ :: [] ∧
        (0xFFFFFFF5#32).extractLsb' 0 4 = 0x5#4) := by decide

theorem witness_DecodeOperationsAlwaysEnd :
    (presenting 0x01490003#32 []).todo = ⟨.word 0x01490003#32, []⟩ :: [] ∧
      (0x01490003#32).extractLsb' 0 4 ∈ [0x3#4, 0x4#4, 0x5#4] := by decide

theorem witness_SplitFieldsCarryTheTemperature : ∃ t, exec (.tempDec 0x8000#16) State.reset = .next t := ⟨_, rfl⟩

/-- The next state that TemperatureSplitIsExact reads the value from. -/
theorem witness_TemperatureSplitIsExact :
    ∃ u, exec (.tempEnc 0x7FFF#16) State.reset = .next u ∧ u.out.v16 = some 0x7FFF#16 := ⟨_, rfl, rfl⟩

/-- FaultSetListsEverySetBit and FaultFieldsLoseNothing. -/
theorem witness_fault_operation_answers : ∃ t, exec (.faultUnpack 0xFF#8) State.reset = .next t := ⟨_, rfl⟩

theorem witness_EveryOperationEndsWithOneStatus :
    (presenting 0xFFFFFFFF#32 []).todo = ⟨.word 0xFFFFFFFF#32, []⟩ :: [] := by decide

theorem witness_FieldsAreDrivenByTheirOperations :
    (presenting 0x00210008#32 []).todo = ⟨.word 0x00210008#32, []⟩ :: [] ∧
      ∃ t, step (presenting 0x00210008#32 []) = .next t ∧ t.out.st = some .ok := ⟨rfl, _, rfl, rfl⟩

/-- An operation that ends in an error, one that drives a field, and one that leaves it undriven. -/
theorem witness_ErrorsCarryNoValue :
    (presenting 0x00490003#32 []).todo = ⟨.word 0x00490003#32, []⟩ :: [] ∧
      (∃ t, step (presenting 0x00490003#32 []) = .next t ∧ t.out.st ≠ some .ok ∧ t.out.v16 = none) ∧
      (∃ t, step (presenting 0xFFFB0007#32 []) = .next t ∧ t.out.v16 = some 0xFFFB#16 ∧ t.out.v8 = none) ∧
      (∃ t, step (presentingFrame [0x41#8]) = .next t ∧ t.out.F0 = some 0x41#8 ∧ t.out.F1 = none) :=
  ⟨rfl, ⟨_, rfl, by decide, rfl⟩, ⟨_, rfl, rfl, rfl⟩, ⟨_, rfl, rfl, rfl⟩⟩

/-- Two states that present the same, one of them with a used bundle and another list. -/
theorem witness_ResultDependsOnlyOnWhatIsPresented :
    let p : Presentation := ⟨.word 0x00FA0006#32, [0x41#8]⟩
    let s₁ := presenting 0x00FA0006#32 [0x41#8]
    let s₂ : State := { W := 0xFFFFFFFF#32, R := [0#8], out := temperatureOut 5#16, todo := [p, p] }
    s₁.todo = p :: [] ∧ s₂.todo = p :: [p] ∧ (∃ t, step s₁ = .next t) ∧
      decode (.word 0x00FA0006#32) = .ok (.tempDec 250#16) ∧
      (∀ cmd, Instr.tempDec 250#16 ≠ .decR16 cmd ∧ Instr.tempDec 250#16 ≠ .decR8 cmd ∧
        Instr.tempDec 250#16 ≠ .decAck cmd) :=
  ⟨rfl, rfl, ⟨_, rfl⟩, by decide, by intro cmd; simp⟩

theorem witness_PresentingTwiceGivesTheSame :
    let p : Presentation := ⟨.word 0x00490003#32, []⟩
    ∃ t, step { State.reset with todo := [p, p] } = .next t := ⟨_, rfl⟩

/-- A count width at its least, and replies that pass the check. -/
theorem witness_ReplyCountWidthNeverMatters :
    3 ≤ 3 ∧ check 3 0x49#8 [0x49#8, 0xFA#8, 0x00#8] = .ok ∧ check 2 0x48#8 [0x48#8, 0x21#8] = .ok ∧
      checkPort 3 0x49#8 (replyPort 3 0xFF#8 (List.replicate 11 0x49#8)) = .lengthMismatch := by decide

/-- Both sides of OnlyMalformedFramesStop are met. -/
theorem witness_OnlyMalformedFramesStop :
    (presentingFrame [0x61#8]).todo = ⟨.frame [0x61#8], []⟩ :: [] ∧ (Encoding.frame [0x61#8]).wellFormed = false := by
  decide

/-- A list with a request word, an illegal word and a command frame (RunsOfOperationsNeverStop). -/
theorem witness_RunsOfOperationsNeverStop :
    FramesWellFormed { State.reset with todo := [⟨.word 0x00000291#32, []⟩, ⟨.word 0#32, []⟩, ⟨.frame [0x41#8], []⟩] } := by
  intro p hp bs hb
  simp only [List.mem_cons, List.not_mem_nil, or_false] at hp
  rcases hp with rfl | rfl | rfl
  · cases hb
  · cases hb
  · cases hb
    decide

theorem witness_LastOperationDecidesTheBundle :
    let p : Presentation := ⟨.word 0x00490003#32, [0x49#8, 0xFA#8, 0x00#8]⟩
    let s : State := { State.reset with todo := [⟨.word 0x00000291#32, []⟩] ++ [p] }
    s.todo = [⟨.word 0x00000291#32, []⟩] ++ [p] ∧ FramesWellFormed s := by
  refine ⟨rfl, fun p hp bs hb => ?_⟩
  simp only [List.cons_append, List.nil_append, List.mem_cons, List.not_mem_nil, or_false] at hp
  rcases hp with rfl | rfl <;> cases hb

/-- A consistent bundle and a step from it (StepKeepsTheBundleConsistent). -/
theorem witness_StepKeepsTheBundleConsistent :
    (presenting 0x80000006#32 []).out.Consistent ∧ ∃ t, step (presenting 0x80000006#32 []) = .next t := by
  refine ⟨?_, _, rfl⟩
  constructor <;> simp [presenting, State.reset, Out.undriven]

/-- A line at the ends of its ranges, and one just outside. -/
theorem witness_AssembledWordHasItsFields :
    (AsmLine.encWr16 (.decimal 31) (.decimal (-32768)) (.binary 3)).InRange ∧
      ¬ (AsmLine.decR16 (.decimal 256)).InRange ∧ ¬ (AsmLine.tempDec (.decimal 32768)).InRange := by
  simp only [AsmLine.InRange, UnsignedInRange, ImmInRange, asmValue]
  decide

theorem witness_TemperatureReadsEndToEnd :
    (Pseudo.rdActual, 0x49#8) ∈
        [(Pseudo.rdSetpoint, 0x41#8), (.rdLowLimit, 0x46#8), (.rdHighLimit, 0x47#8), (.rdActual, 0x49#8)] ∧
      (answered [0x49#8, 0xFB#8, 0xFF#8]).incoming = .bytes [0x49#8, 0xFB#8, 0xFF#8] :: [] := by decide

theorem witness_TemperatureWritesEndToEnd :
    (Pseudo.wrSetpoint 250#16, 0x61#8) ∈
        [(Pseudo.wrSetpoint 250#16, 0x61#8), (.wrLowLimit 250#16, 0x66#8), (.wrHighLimit 250#16, 0x67#8)] ∧
      (answered [0x61#8]).incoming = .bytes [0x61#8] :: [] := by decide

theorem witness_FaultReadEndToEnd :
    (answered [0x48#8, 0x21#8]).incoming = .bytes [0x48#8, 0x21#8] :: [] := by decide

/-- The rows of WrongEchoEndsTheSequence: a pseudo-operation, its command and the length of its answer. -/
def wrongEchoRows (v : Half) : List (Pseudo × Byte × Nat) :=
  [(Pseudo.idQuery, 0x41#8, 3), (.rdSetpoint, 0x41#8, 3), (.rdLowLimit, 0x46#8, 3),
    (.rdHighLimit, 0x47#8, 3), (.rdActual, 0x49#8, 3), (.rdFaults, 0x48#8, 2), (.wrSetpoint v, 0x61#8, 1),
    (.wrLowLimit v, 0x66#8, 1), (.wrHighLimit v, 0x67#8, 1)]

/-- A sequence that ends in CODE_MISMATCH, and wrong answers of each expected length, one byte to three. -/
theorem witness_WrongEchoEndsTheSequence :
    (∃ l', runSteps [.issue (.decAck 0x61#8)] wrongAcknowledge = .failed .codeMismatch l') ∧
      (Pseudo.rdLowLimit, 0x46#8, 3) ∈ wrongEchoRows 250#16 ∧
      (Pseudo.rdFaults, 0x48#8, 2) ∈ wrongEchoRows 250#16 ∧
      (Pseudo.wrSetpoint 250#16, 0x61#8, 1) ∈ wrongEchoRows 250#16 ∧
      0x47#8 ≠ 0x46#8 ∧ [0x47#8, 0x10#8, 0x00#8].length = 3 ∧ 0x49#8 ≠ 0x48#8 ∧ [0x49#8, 0x21#8].length = 2 ∧
      0x41#8 ≠ 0x61#8 ∧ [0x41#8].length = 1 ∧
      (answered [0x47#8, 0x10#8, 0x00#8]).incoming = .bytes [0x47#8, 0x10#8, 0x00#8] :: [] ∧
      (answered [0x49#8, 0x21#8]).incoming = .bytes [0x49#8, 0x21#8] :: [] ∧
      (answered [0x41#8]).incoming = .bytes [0x41#8] :: [] :=
  ⟨⟨_, rfl⟩, by decide⟩

/-- The answer of the last clause of IdentityQueryIsSetPointRead. -/
theorem witness_IdentityQueryIsSetPointRead :
    (answered [0x41#8, 0x2C#8, 0x01#8]).incoming = .bytes [BitVec.ofNat 8 'A'.toNat, 0x2C#8, 0x01#8] :: [] := by decide

/-- No bytes, one byte short, and a failed transport (HostErrorsEndTheSequence). -/
theorem witness_HostErrorsEndTheSequence :
    (Pseudo.rdFaults, 2, [0x48#8]) ∈ [(Pseudo.rdActual, 3, [0x49#8]), (.rdFaults, 2, [0x48#8])] ∧
      wrongAcknowledge.incoming = [] ∧
      (answered [0x48#8]).incoming = .bytes [0x48#8] :: [] ∧ [0x48#8].length < 2 ∧
      ({ wrongAcknowledge with incoming := [.broken] } : Link).incoming = .broken :: [] := by decide

/-- R206: no bytes within the deadline are a Timeout, a failed transport is an IoError. -/
theorem test_host_errors :
    (∃ l', runAccessor .rdFaults wrongAcknowledge = .hostFailed .timeout l') ∧
      ∃ l', runAccessor .rdFaults { wrongAcknowledge with incoming := [.broken] } = .hostFailed .ioError l' :=
  ⟨⟨_, rfl⟩, _, rfl⟩

end Sys2Proof.Tests
end

section
/-! Lemmas about the hardware form of the reply port, for the statement on RLEN_W (R8, R23). -/

namespace Sys2Proof.Machine

/-- Saturation does not touch a length below the count's largest value (R23, D5). -/
theorem replyPort_len_eq_iff {rlenW n : Nat} (hn : n < 2 ^ rlenW - 1) (idle : Byte) (r : List Byte) :
    (replyPort rlenW idle r).len = n ↔ r.length = n := by
  show min r.length (2 ^ rlenW - 1) = n ↔ r.length = n
  omega

/-- A byte below the reply's length does not depend on what stands at the unread ones (R23). -/
theorem getD_eq_replyByte {r : List Byte} {k : Nat} (hk : k < r.length) (idle : Byte) :
    r.getD k idle = replyByte r k := by
  simp [replyByte, hk]

/-- The check on the hardware port is the check on the byte list, for every length the count tells from a longer one. -/
theorem checkPort_replyPort {rlenW n : Nat} (hpos : 0 < n) (hn : n < 2 ^ rlenW - 1) (idle cmd : Byte)
    (r : List Byte) : checkPort n cmd (replyPort rlenW idle r) = check n cmd r := by
  have hlen := replyPort_len_eq_iff hn idle r
  by_cases h : r.length = n
  · have hecho : (replyPort rlenW idle r).b0 = replyByte r 0 := getD_eq_replyByte (by omega) idle
    simp [checkPort, check, hlen, h, hecho]
  · simp [checkPort, check, hlen, h]

/-- A count of at least 3 bits tells the three expected reply lengths from every other length (R8). -/
theorem expected_length_below_saturation {rlenW n : Nat} (hw : 3 ≤ rlenW) (hn : n ≤ 3) : n < 2 ^ rlenW - 1 := by
  have hpow : 2 ^ 3 ≤ 2 ^ rlenW := Nat.pow_le_pow_right (by decide) hw
  omega

end Sys2Proof.Machine
end

section
open Sys2Proof Sys2Proof.Machine

/-- Settles O39: the three lengths lie below saturation, and a reply that passes the check has the bytes that are
read. -/
theorem replyCountWidthNeverMatters : Obligations.ReplyCountWidthNeverMatters := by
  refine ⟨Nat.le_add_right 3 Config.rlenExtra, fun rlenW idle cmd r hw => ⟨fun n hn => ?_, fun h => ?_, fun h => ?_⟩⟩
  · have hrange : 0 < n ∧ n ≤ 3 := by
      simp only [List.mem_cons, List.not_mem_nil, or_false] at hn
      omega
    exact checkPort_replyPort hrange.1 (expected_length_below_saturation hw hrange.2) idle cmd r
  · obtain ⟨hlen, -⟩ := check_ok.1 h
    exact congrArg₂ le16 (getD_eq_replyByte (by omega) idle) (getD_eq_replyByte (by omega) idle)
  · obtain ⟨hlen, -⟩ := check_ok.1 h
    exact getD_eq_replyByte (by omega) idle

end

section
/-! Lemmas about the control bytes the encode operations build, and about the tables of R70 and R71. -/

namespace Sys2Proof.Machine

/-- A control byte is its `hi` and direction bits with the code or-ed in (R61). -/
theorem controlByte_eq_or (hi : Hi) (dir : BitVec 1) (code : Code) :
    controlByte hi dir code = controlByte hi dir 0#5 ||| code.setWidth 8 := by
  ext i h
  rw [← BitVec.getLsbD_eq_getElem h, ← BitVec.getLsbD_eq_getElem h, BitVec.getLsbD_or, BitVec.getLsbD_setWidth,
    getLsbD_controlByte, getLsbD_controlByte]
  by_cases hc : i < 5
  · simp [hc, h]
  · simp [hc, BitVec.getLsbD_of_ge code i (by omega)]

/-- ENC.RD drives the read control byte on `F0` (R100). -/
theorem encRd_F0 {code : Code} {hi : Hi} {s t : State} (h : exec (.encRd code hi) s = .next t) :
    t.out.F0 = some (controlByte hi 0#1 0#5 ||| code.setWidth 8) := by
  rw [exec_eq] at h
  cases h
  exact congrArg some (controlByte_eq_or hi 0#1 code)

/-- ENC.WR16 drives the write control byte on `F0` (R101). -/
theorem encWr16_F0 {code : Code} {v : Half} {hi : Hi} {s t : State} (h : exec (.encWr16 code v hi) s = .next t) :
    t.out.F0 = some (controlByte hi 1#1 0#5 ||| code.setWidth 8) := by
  rw [exec_eq] at h
  cases h
  exact congrArg some (controlByte_eq_or hi 1#1 code)

/-- `ALT_REPLY_LEN` is the length of a reply frame (R7). -/
theorem altReplyLen_range (ctrl : Byte) : 1 ≤ Config.altReplyLen ctrl ∧ Config.altReplyLen ctrl ≤ 3 :=
  replyFrameLength_range (Config.altPayloadWidth ctrl)

theorem expectedReplyLength_of_decodeWith_none {row : ControlRow} (h : row.decodeWith = none) :
    expectedReplyLength row = Config.altReplyLen row.ctrl := by
  simp [expectedReplyLength, h]

theorem expectedReplyLength_range (row : ControlRow) : 1 ≤ expectedReplyLength row ∧ expectedReplyLength row ≤ 3 := by
  unfold expectedReplyLength
  cases row.decodeWith with
  | some d => exact replyFrameLength_range d.payloadWidth
  | none => exact altReplyLen_range row.ctrl

/-- Bit 5 of a documented control byte gives its frame length (R67, R71). -/
theorem controlTable_frameLength :
    ∀ row ∈ controlTable, row.frameLength = if row.ctrl.getLsbD 5 then 3 else 1 := by decide

/-- The alternate bytes, those with bit 7 set, are the ones the table gives no decode operation (R71, D21). -/
theorem controlTable_alternate :
    ∀ row ∈ controlTable, row.ctrl.getLsbD 7 = true → row.decodeWith = none := by decide

/-- A documented byte with bit 7 clear gets an acknowledge for a write, and the payload of its code for a read (R70,
R71). -/
theorem controlTable_expectedReplyLength :
    ∀ row ∈ controlTable, row.ctrl.getLsbD 7 = false → expectedReplyLength row =
      if row.ctrl.getLsbD 5 then 1 else 1 + (paramTable (row.ctrl.extractLsb' 0 5)).payloadWidth.val := by decide

end Sys2Proof.Machine
end

section
open Sys2Proof Sys2Proof.Machine

/-- Settles O31: the control bytes by R61's packing, the finite tables row by row, and the lengths the spec leaves open by
the bounds of a reply frame. -/
theorem documentedControlBytesAreBuilt : Obligations.DocumentedControlBytesAreBuilt := by
  refine ⟨fun code v s t => ⟨encRd_F0, encWr16_F0, encRd_F0, encWr16_F0⟩, fun row hrow => ?_, by decide, by decide,
    by decide, fun code => Fin.is_le _, altReplyLen_range, rfl⟩
  exact ⟨controlTable_frameLength row hrow, controlTable_expectedReplyLength row hrow,
    fun h => expectedReplyLength_of_decodeWith_none (controlTable_alternate row hrow h), expectedReplyLength_range row⟩

end

section
/-! What a presented operation leaves on the bundle, as a function of the presentation alone (R20, R48). -/

namespace Sys2Proof.Machine

/-- The bundle a presented operation leaves: an operation's result, or ILLEGAL_OP for a word that is none (log entry 1). A
byte list that is no command frame leaves none (log entry 3). -/
def presentedResult (p : Presentation) : Option Out :=
  match decode p.what, p.what with
  | .ok i, _ => some (resultOf i p.reply)
  | .error _, .word _ => some (statusOnly .illegalOp)
  | .error _, .frame _ => none

theorem presentedResult_decoded {e : Encoding} {i : Instr} (h : decode e = .ok i) (r : List Byte) :
    presentedResult ⟨e, r⟩ = some (resultOf i r) := by
  simp [presentedResult, h]

/-- A step that presents `p` drives the result of `p` on the ports that hold `p`, or stops where `p` has none. -/
theorem step_next_iff {s t : State} {p : Presentation} {rest : List Presentation} (h : s.todo = p :: rest) :
    step s = .next t ↔ ∃ o, presentedResult p = some o ∧ t = drive o (present p rest s) := by
  obtain ⟨e, r⟩ := p
  rw [step_present h]
  cases hd : decode e with
  | ok i =>
    rw [operate_decoded hd, exec_eq, present_R, presentedResult_decoded hd]
    simp [eq_comm]
  | error _ =>
    rw [operate_rejected hd]
    cases e with
    | word w => simp [presentedResult, hd, rejected, raise, eq_comm]
    | frame bs => simp [presentedResult, hd, rejected]

/-- The results there are: an operation's, and that of an illegal request word. -/
theorem presentedResult_cases {p : Presentation} {o : Out} (h : presentedResult p = some o) :
    (∃ i, decode p.what = .ok i ∧ o = resultOf i p.reply) ∨
    ((∃ r, decode p.what = .error r) ∧ o = statusOnly .illegalOp) := by
  obtain ⟨e, reply⟩ := p
  cases hd : decode e with
  | ok i =>
    rw [presentedResult_decoded hd] at h
    exact .inl ⟨i, rfl, (Option.some.inj h).symm⟩
  | error r =>
    cases e with
    | word w =>
      refine .inr ⟨⟨r, rfl⟩, ?_⟩
      simpa [presentedResult, hd, eq_comm] using h
    | frame bs => simp [presentedResult, hd] at h

/-- Presenting again what stands on the ports, with its result on the bundle, takes it off the list and nothing more. -/
theorem drive_present_again (o : Out) (p : Presentation) (rest rest' : List Presentation) (s : State) :
    drive o (present p rest (drive o (present p rest' s))) = { drive o (present p rest' s) with todo := rest } := by
  obtain ⟨e, r⟩ := p
  cases e <;> rfl

/-- Only the three decode operations read the reply (R23). -/
theorem resultOf_reply_irrelevant {i : Instr}
    (h : ∀ cmd, i ≠ .decR16 cmd ∧ i ≠ .decR8 cmd ∧ i ≠ .decAck cmd) (r₁ r₂ : List Byte) :
    resultOf i r₁ = resultOf i r₂ := by
  cases i with
  | decR16 cmd => exact absurd rfl (h cmd).1
  | decR8 cmd => exact absurd rfl (h cmd).2.1
  | decAck cmd => exact absurd rfl (h cmd).2.2
  | _ => rfl

/-- A checked bundle is the bundle itself, or the error's status alone (R120). -/
theorem checked_cases (c : Status) (o : Out) :
    (if c = .ok then o else statusOnly c) = o ∨ ∃ st ≠ .ok, (if c = .ok then o else statusOnly c) = statusOnly st := by
  by_cases h : c = .ok
  · exact .inl (if_pos h)
  · exact .inr ⟨c, h, if_neg h⟩

theorem resultOf_decR16_cases (cmd : Byte) (r : List Byte) :
    resultOf (.decR16 cmd) r = value16Out (replyPayload16 r) ∨
      ∃ st ≠ .ok, resultOf (.decR16 cmd) r = statusOnly st :=
  checked_cases (check 3 cmd r) _

theorem resultOf_decR8_cases (cmd : Byte) (r : List Byte) :
    resultOf (.decR8 cmd) r = value8Out (replyPayload8 r) ∨
      ∃ st ≠ .ok, resultOf (.decR8 cmd) r = statusOnly st :=
  checked_cases (check 2 cmd r) _

end Sys2Proof.Machine
end

section
/-! The bundles the operations leave are consistent, one lemma per bundle (R24, R25, R67, R142, R161, R162). -/

namespace Sys2Proof.Machine

theorem statusOnly_consistent (st : Status) : (statusOnly st).Consistent := by
  constructor <;> simp [statusOnly, Out.undriven]

theorem value16Out_consistent (v : Half) : (value16Out v).Consistent := by
  constructor <;> simp [value16Out, Out.undriven]

theorem value8Out_consistent (v : Byte) : (value8Out v).Consistent := by
  constructor <;> simp [value8Out, Out.undriven]

/-- Bit 5 of a control byte is its direction bit (R61). -/
@[simp] theorem controlByte_bit5 (hi : Hi) (dir : BitVec 1) (code : Code) :
    (controlByte hi dir code)[5] = dir[0] := by
  rw [← BitVec.getLsbD_eq_getElem, getLsbD_controlByte]
  simp

theorem readFrameOut_consistent (hi : Hi) (code : Code) : (readFrameOut hi code).Consistent := by
  constructor <;> simp [readFrameOut, Out.undriven]

theorem writeFrameOut_consistent (hi : Hi) (code : Code) (v : Half) : (writeFrameOut hi code v).Consistent := by
  constructor <;> simp [writeFrameOut, Out.undriven]

/-- Whole degrees and tenths fit their fields, so that nothing of the magnitude is lost (R142). -/
theorem temperature_magnitude (b : Half) :
    (BitVec.ofNat 12 ((sint16 b).natAbs / 10)).toNat = (sint16 b).natAbs / 10 ∧
    (BitVec.ofNat 4 ((sint16 b).natAbs % 10)).toNat = (sint16 b).natAbs % 10 ∧ (sint16 b).natAbs / 10 ≤ 3276 := by
  have hlo : -32768 ≤ sint16 b := BitVec.le_toInt b
  have hhi : sint16 b < 32768 := BitVec.toInt_lt (x := b)
  simp only [BitVec.toNat_ofNat]
  omega

theorem negFlag_eq_one_iff (t : Int) : negFlag t = 1#1 ↔ t < 0 := by
  unfold negFlag
  split_ifs with h <;> simp [h]

theorem temperatureOut_consistent (b : Half) : (temperatureOut b).Consistent := by
  constructor
  case temperatureExact =>
    rintro n w d ⟨⟩ ⟨⟩ ⟨⟩
    obtain ⟨hwhole, htenths, hrange⟩ := temperature_magnitude b
    rw [hwhole, htenths]
    refine ⟨hrange, by omega, b, rfl, ?_⟩
    show sint16 b = _
    simp only [negFlag_eq_one_iff]
    split_ifs <;> omega
  all_goals simp [temperatureOut, Out.undriven]

/-- The named flags and the unnamed bits give the mask back (R161). -/
theorem rebuildMask_fields (m : Byte) : rebuildMask (namedField m) (unnamedField m) = m := by
  refine BitVec.eq_of_getLsbD_eq fun k hk => ?_
  simp only [rebuildMask, namedField, unnamedField, BitVec.getLsbD_or]
  repeat rw [BitVec.getLsbD_append]
  simp only [BitVec.getLsbD_extractLsb']
  repeat rw [BitVec.getLsbD_append]
  interval_cases k <;> simp

theorem unnamedField_named_positions (m : Byte) : unnamedField m &&& 0b10110101#8 = 0#8 := by
  rw [unnamedField, BitVec.and_assoc]
  simp

theorem nofaultFlag_eq_one_iff (m : Byte) : nofaultFlag m = 1#1 ↔ m = 0#8 := by
  unfold nofaultFlag
  split_ifs with h <;> simp [h]

/-- `count` has as many as the fault set has entries; at most 8, so it fits its field (R162, R164). -/
theorem countField_toNat (m : Byte) : (countField m).toNat = (faultSet m).length := by
  have hset : (faultSet m).length = maskBit m 0 + maskBit m 1 + maskBit m 2 + maskBit m 3 + maskBit m 4 + maskBit m 5
      + maskBit m 6 + maskBit m 7 := by
    simp only [faultSet, List.length_map, ← List.countP_eq_length_filter, List.countP_cons, List.countP_nil, maskBit]
    omega
  have hbit (p : Nat) : maskBit m p ≤ 1 := by
    unfold maskBit
    split_ifs <;> decide
  rw [countField, BitVec.toNat_ofNat, hset, Nat.mod_eq_of_lt]
  linarith [hbit 0, hbit 1, hbit 2, hbit 3, hbit 4, hbit 5, hbit 6, hbit 7]

theorem faultOut_consistent (m : Byte) : (faultOut m).Consistent := by
  constructor
  case faultsExact =>
    rintro n u z c ⟨⟩ ⟨⟩ ⟨⟩ ⟨⟩
    exact ⟨m, rfl, rebuildMask_fields m, unnamedField_named_positions m, nofaultFlag_eq_one_iff m, countField_toNat m⟩
  all_goals simp [faultOut, Out.undriven]

theorem resultOf_consistent (i : Instr) (r : List Byte) : (resultOf i r).Consistent := by
  cases i with
  | encRd code hi => exact readFrameOut_consistent hi code
  | encWr16 code v hi => exact writeFrameOut_consistent hi code v
  | decR16 cmd =>
    obtain h | ⟨st, -, h⟩ := resultOf_decR16_cases cmd r
    · exact h ▸ value16Out_consistent _
    · exact h ▸ statusOnly_consistent st
  | decR8 cmd =>
    obtain h | ⟨st, -, h⟩ := resultOf_decR8_cases cmd r
    · exact h ▸ value8Out_consistent _
    · exact h ▸ statusOnly_consistent st
  | decAck cmd => exact statusOnly_consistent _
  | tempDec v => exact temperatureOut_consistent v
  | tempEnc v => exact value16Out_consistent v
  | faultUnpack m => exact faultOut_consistent m
  | wireRead code hi => exact readFrameOut_consistent hi code
  | wireWrite16 code v hi => exact writeFrameOut_consistent hi code v

theorem presentedResult_consistent {p : Presentation} {o : Out} (h : presentedResult p = some o) : o.Consistent := by
  obtain ⟨i, -, rfl⟩ | ⟨-, rfl⟩ := presentedResult_cases h
  · exact resultOf_consistent i p.reply
  · exact statusOnly_consistent .illegalOp

end Sys2Proof.Machine
end

section
open Sys2Proof Sys2Proof.Machine

/-- Settles O43: an idle step keeps the bundle, and every other one drives the result of a presentation, which is
consistent. -/
theorem stepKeepsTheBundleConsistent : Obligations.StepKeepsTheBundleConsistent := by
  intro s t hs h
  cases htodo : s.todo with
  | nil =>
    rw [step_idle htodo] at h
    cases h
    exact hs
  | cons p rest =>
    obtain ⟨o, ho, rfl⟩ := (step_next_iff htodo).1 h
    exact presentedResult_consistent ho

/-- Settles O34: an operation drives its result and nothing else. -/
theorem operationsWriteOnlyTheBundle : Obligations.OperationsWriteOnlyTheBundle :=
  fun i s => ⟨drive (resultOf i s.R) s, exec_eq i s, rfl, rfl, rfl, rfl⟩

/-- Settles O37: what a step leaves on the bundle is the result of the presentation, in which only the decode operations
read the reply. -/
theorem resultDependsOnlyOnWhatIsPresented : Obligations.ResultDependsOnlyOnWhatIsPresented := by
  refine ⟨fun p s₁ s₂ t₁ rest₁ rest₂ h₁ h₂ hstep => ?_, fun e i r₁ r₂ s₁ s₂ t₁ rest₁ rest₂ hd hi h₁ h₂ hstep => ?_,
    fun i s t h => ?_⟩
  · obtain ⟨o, ho, rfl⟩ := (step_next_iff h₁).1 hstep
    exact ⟨_, (step_next_iff h₂).2 ⟨o, ho, rfl⟩, rfl⟩
  · obtain ⟨o, ho, rfl⟩ := (step_next_iff h₁).1 hstep
    rw [presentedResult_decoded hd, resultOf_reply_irrelevant hi r₁ r₂, ← presentedResult_decoded hd] at ho
    exact ⟨_, (step_next_iff h₂).2 ⟨o, ho, rfl⟩, rfl⟩
  · rw [exec_eq] at h
    cases h
    rfl

/-- Settles O38: the second step finds the same presentation and drives the same result. -/
theorem presentingTwiceGivesTheSame : Obligations.PresentingTwiceGivesTheSame := by
  intro s t p rest htodo h
  obtain ⟨o, ho, rfl⟩ := (step_next_iff htodo).1 h
  have hagain : (drive o (present p (p :: rest) s)).todo = p :: rest := by simp
  exact ⟨_, (step_next_iff hagain).2 ⟨o, ho, rfl⟩, drive_present_again o p rest (p :: rest) s⟩

end

section
/-! The status of a result, and the hardware view of a bundle that drives one (R25, R200). -/

namespace Sys2Proof.Machine

theorem resultOf_drives_status (i : Instr) (r : List Byte) : ∃ st, (resultOf i r).st = some st := by
  cases i with
  | decR16 cmd =>
    obtain h | ⟨st, -, h⟩ := resultOf_decR16_cases cmd r
    · exact ⟨.ok, h ▸ rfl⟩
    · exact ⟨st, h ▸ rfl⟩
  | decR8 cmd =>
    obtain h | ⟨st, -, h⟩ := resultOf_decR8_cases cmd r
    · exact ⟨.ok, h ▸ rfl⟩
    · exact ⟨st, h ▸ rfl⟩
  | _ => exact ⟨_, rfl⟩

theorem presentedResult_drives_status {p : Presentation} {o : Out} (h : presentedResult p = some o) :
    ∃ st, o.st = some st := by
  obtain ⟨i, -, rfl⟩ | ⟨-, rfl⟩ := presentedResult_cases h
  · exact resultOf_drives_status i p.reply
  · exact ⟨_, rfl⟩

/-- A result that does not end OK drives a status alone (R25). -/
theorem presentedResult_error {p : Presentation} {o : Out} (h : presentedResult p = some o) (hok : o.st ≠ some .ok) :
    ∃ st, o = statusOnly st := by
  obtain ⟨st, hst⟩ := presentedResult_drives_status h
  have hout := (presentedResult_consistent h).errorDrivesNothing hok
  rw [hst] at hout
  exact ⟨st, hout⟩

theorem hardwareOut_of_st {o : Out} {st : Status} (h : o.st = some st) :
    hardwareOut o =
      { st := statusBits st, flen := o.flen.getD 0, F0 := o.F0.getD 0, F1 := o.F1.getD 0, F2 := o.F2.getD 0,
        v16 := o.v16.getD 0, v8 := o.v8.getD 0, neg := o.neg.getD 0, whole := o.whole.getD 0,
        tenths := o.tenths.getD 0, named := o.named.getD 0, unnamed := o.unnamed.getD 0,
        nofault := o.nofault.getD 0, count := o.count.getD 0 } := by
  simp only [hardwareOut, h]

end Sys2Proof.Machine
end

section
open Sys2Proof Sys2Proof.Machine

/-- Settles O36: a result that does not end OK is a status alone, and once a status is driven hardware shows each field
or, where it is undriven, zero. -/
theorem errorsCarryNoValue : Obligations.ErrorsCarryNoValue := by
  refine ⟨fun s t p rest htodo h hok => ?_, fun s t p rest htodo h => ?_⟩
  · obtain ⟨o, ho, rfl⟩ := (step_next_iff htodo).1 h
    obtain ⟨st, rfl⟩ := presentedResult_error ho hok
    exact ⟨st, rfl, hardwareOut_of_st rfl⟩
  · obtain ⟨o, ho, rfl⟩ := (step_next_iff htodo).1 h
    obtain ⟨st, hst⟩ := presentedResult_drives_status ho
    rw [drive_out, hardwareOut_of_st hst]
    simp +contextual [hst]

end

section
/-! The operation number of a decoded request word (R62, R63). -/

namespace Sys2Proof.Machine

theorem accept_ok {zero : Bool} {op : BitVec 4} {i j : Instr} (h : accept zero op i = .ok j) : j = i := by
  unfold accept at h
  split_ifs at h
  cases h
  rfl

/-- The operation a request word decodes to is the one its `op` field numbers. -/
theorem decodeWord_cases {w : Word} {i : Instr} (h : decodeWord w = .ok i) :
    (opField w = 0x1#4 ∧ ∃ code hi, i = .encRd code hi) ∨
    (opField w = 0x2#4 ∧ ∃ code v hi, i = .encWr16 code v hi) ∨
    (opField w = 0x3#4 ∧ ∃ cmd, i = .decR16 cmd) ∨ (opField w = 0x4#4 ∧ ∃ cmd, i = .decR8 cmd) ∨
    (opField w = 0x5#4 ∧ ∃ cmd, i = .decAck cmd) ∨ (opField w = 0x6#4 ∧ ∃ v, i = .tempDec v) ∨
    (opField w = 0x7#4 ∧ ∃ v, i = .tempEnc v) ∨ (opField w = 0x8#4 ∧ ∃ m, i = .faultUnpack m) := by
  unfold decodeWord at h
  simp only at h
  split_ifs at h with h1 h2 h3 h4 h5 h6 h7 h8
  · exact .inl ⟨h1, _, _, accept_ok h⟩
  · exact .inr (.inl ⟨h2, _, _, _, accept_ok h⟩)
  · exact .inr (.inr (.inl ⟨h3, _, accept_ok h⟩))
  · exact .inr (.inr (.inr (.inl ⟨h4, _, accept_ok h⟩)))
  · exact .inr (.inr (.inr (.inr (.inl ⟨h5, _, accept_ok h⟩))))
  · exact .inr (.inr (.inr (.inr (.inr (.inl ⟨h6, _, accept_ok h⟩)))))
  · exact .inr (.inr (.inr (.inr (.inr (.inr (.inl ⟨h7, _, accept_ok h⟩))))))
  · exact .inr (.inr (.inr (.inr (.inr (.inr (.inr ⟨h8, _, accept_ok h⟩))))))

end Sys2Proof.Machine
end

section
open Sys2Proof Sys2Proof.Machine

/-- Settles O35: a word that ends OK decodes to the operation of its `op` field, whose bundle is read off field by
field. -/
theorem fieldsAreDrivenByTheirOperations : Obligations.FieldsAreDrivenByTheirOperations := by
  intro s t w r rest htodo h hok
  obtain ⟨o, ho, rfl⟩ := (step_next_iff htodo).1 h
  rw [drive_out] at hok ⊢
  obtain ⟨i, hd, rfl⟩ | ⟨-, rfl⟩ := presentedResult_cases ho
  case inr => cases hok
  obtain ⟨hop, code, hi, rfl⟩ | ⟨hop, code, v, hi, rfl⟩ | ⟨hop, cmd, rfl⟩ | ⟨hop, cmd, rfl⟩ | ⟨hop, cmd, rfl⟩ |
    ⟨hop, v, rfl⟩ | ⟨hop, v, rfl⟩ | ⟨hop, m, rfl⟩ := decodeWord_cases hd
  all_goals simp only [opField] at hop
  · simp [hop, resultOf, readFrameOut, Out.undriven]
  · simp [hop, resultOf, writeFrameOut, Out.undriven]
  · obtain h | ⟨st, hne, h⟩ := resultOf_decR16_cases cmd r
    · simp [hop, h, value16Out, Out.undriven]
    · simp [h, hne] at hok
  · obtain h | ⟨st, hne, h⟩ := resultOf_decR8_cases cmd r
    · simp [hop, h, value8Out, Out.undriven]
    · simp [h, hne] at hok
  · simp [hop, resultOf, statusOnly, Out.undriven]
  · simp [hop, resultOf, temperatureOut, Out.undriven]
  · simp [hop, resultOf, value16Out, Out.undriven]
  · simp [hop, resultOf, faultOut, Out.undriven]

end

section
/-! The payload bytes of a write frame and of a 16-bit reply (R41). -/

namespace Sys2Proof.Machine

/-- ENC.WR16 drives the payload on `F1` and `F2`, its low byte first (R41, R101). -/
theorem encWr16_payload {code : Code} {v : Half} {hi : Hi} {s t : State} (h : exec (.encWr16 code v hi) s = .next t) :
    t.out.F1 = some (lowByte v) ∧ t.out.F2 = some (highByte v) := by
  rw [exec_eq] at h
  cases h
  exact ⟨rfl, rfl⟩

/-- A three-byte reply with the right echo passes the check of DEC.R16, which drives its payload (R120, R122). -/
theorem resultOf_decR16_of_echo (cmd lo hi : Byte) :
    resultOf (.decR16 cmd) [cmd, lo, hi] = value16Out (le16 lo hi) :=
  if_pos (check_ok.2 ⟨rfl, rfl⟩)

end Sys2Proof.Machine
end

section
open Sys2Proof Sys2Proof.Machine

/-- Settles O25: a write frame carries the two bytes of the immediate, and a reply that echoes the command gives back the
value of its two payload bytes. -/
theorem payloadsAreLittleEndian : Obligations.PayloadsAreLittleEndian := by
  refine ⟨fun code imm16 hi s t h => encWr16_payload h, fun cmd lo hi s t hR h => ?_⟩
  rw [exec_eq, hR, resultOf_decR16_of_echo] at h
  cases h
  exact ⟨le16 lo hi, rfl, lowByte_le16 lo hi, highByte_le16 lo hi⟩

end

section
/-! A list of presentations whose byte lists are command frames runs to its end (R67, log entries 1 and 3). -/

namespace Sys2Proof.Machine

/-- A command frame decodes: to WIRE.READ from one byte, to WIRE.WRITE16 from three (R67, R76). -/
theorem decode_frame_of_wellFormed {bs : List Byte} (h : (Encoding.frame bs).wellFormed = true) :
    ∃ i, decode (.frame bs) = .ok i := by
  match bs, h with
  | [c], h => exact ⟨_, if_pos (eq_of_beq h)⟩
  | [c, lo, hi], h => exact ⟨_, if_pos (eq_of_beq h)⟩

/-- A request word and a command frame each have a result; only a byte list that is no command frame has none. -/
theorem presentedResult_of_wellFormed {p : Presentation}
    (h : ∀ bs, p.what = .frame bs → (Encoding.frame bs).wellFormed = true) : ∃ o, presentedResult p = some o := by
  obtain ⟨e, r⟩ := p
  cases hd : decode e with
  | ok i => exact ⟨_, presentedResult_decoded hd r⟩
  | error _ =>
    cases e with
    | word w => exact ⟨statusOnly .illegalOp, by simp [presentedResult, hd]⟩
    | frame bs =>
      obtain ⟨i, hi⟩ := decode_frame_of_wellFormed (h bs rfl)
      rw [hi] at hd
      cases hd

/-- A step that presents `p` from a list of words and command frames drives the result of `p`. -/
theorem step_of_framesWellFormed {s : State} {p : Presentation} {rest : List Presentation} (h : s.todo = p :: rest)
    (hs : FramesWellFormed s) : ∃ o, presentedResult p = some o ∧ step s = .next (drive o (present p rest s)) := by
  obtain ⟨o, ho⟩ := presentedResult_of_wellFormed (hs p (by simp [h]))
  exact ⟨o, ho, (step_next_iff h).2 ⟨o, ho, rfl⟩⟩

/-- A presented operation leaves the rest of the list, whose byte lists are command frames still. -/
theorem framesWellFormed_drive_present {s : State} {p : Presentation} {rest : List Presentation}
    (h : s.todo = p :: rest) (hs : FramesWellFormed s) (o : Out) : FramesWellFormed (drive o (present p rest s)) := by
  intro q hq
  rw [drive_todo, present_todo] at hq
  exact hs q (h ▸ List.mem_cons_of_mem p hq)

/-- Running the whole list ends with the result of its last presentation on the bundle. -/
theorem run_all_out (ps : List Presentation) {p : Presentation} {s : State} (h : s.todo = ps ++ [p])
    (hs : FramesWellFormed s) :
    ∃ t, Host.Core.run core (ps.length + 1) s = .next t ∧ presentedResult p = some t.out ∧ t.todo = [] := by
  induction ps generalizing s with
  | nil =>
    obtain ⟨o, ho, hstep⟩ := step_of_framesWellFormed h hs
    exact ⟨_, run_next hstep 0, ho, present_todo p [] s⟩
  | cons q qs ih =>
    obtain ⟨o, -, hstep⟩ := step_of_framesWellFormed h hs
    have hrest : (drive o (present q (qs ++ [p]) s)).todo = qs ++ [p] := present_todo q (qs ++ [p]) s
    obtain ⟨t, hrun, ht⟩ := ih hrest (framesWellFormed_drive_present h hs o)
    exact ⟨t, (run_next hstep (qs.length + 1)).trans hrun, ht⟩

end Sys2Proof.Machine
end

section
open Sys2Proof Sys2Proof.Machine

/-- Settles O42: the run ends with the result of the last presentation, and that result does not depend on the state it
is presented in. -/
theorem lastOperationDecidesTheBundle : Obligations.LastOperationDecidesTheBundle := by
  intro ps p s htodo hs
  obtain ⟨t, hrun, hout, hnil⟩ := run_all_out ps htodo hs
  exact ⟨t, _, hrun, (step_next_iff rfl).2 ⟨t.out, hout, rfl⟩, rfl, hnil⟩

end

section
/-! The decoder and the encoder are inverse to each other (R61 to R65, R67). -/

namespace Sys2Proof.Machine

theorem accept_eq_ok_iff {zero : Bool} {op : BitVec 4} {i j : Instr} :
    accept zero op i = .ok j ↔ zero = true ∧ i = j := by
  cases zero <;> simp [accept]

/-- A word whose `op` takes no code and no `hi` has them and the reserved bits 0 (R62). -/
theorem lowClear_iff {w : Word} :
    lowClear w = true ↔ codeField w = 0#5 ∧ hiField w = 0#2 ∧ reservedField w = 0#5 := by
  simp [lowClear, and_assoc]

/-- An immediate whose upper byte is 0 is its lower byte alone (R62). -/
theorem immOfByte_cmdField {w : Word} (h : topField w = 0#8) : immOfByte (cmdField w) = imm16Field w := by
  rw [topField_eq] at h
  rw [cmdField_eq]
  exact (congrArg (le16 (lowByte (imm16Field w))) h.symm).trans (le16_bytes _)

@[simp] theorem lowClear_packWord (op : BitVec 4) (imm : Half) : lowClear (packWord op 0#5 0#2 imm) = true := by
  simp [lowClear_iff]

@[simp] theorem cmdField_packWord (op : BitVec 4) (code : Code) (hi : Hi) (imm : Half) :
    cmdField (packWord op code hi imm) = lowByte imm := by
  rw [cmdField_eq, imm16Field_packWord]

@[simp] theorem topField_packWord (op : BitVec 4) (code : Code) (hi : Hi) (imm : Half) :
    topField (packWord op code hi imm) = highByte imm := by
  rw [topField_eq, imm16Field_packWord]

/-- Decoding the encoding of an operation gives the operation back. -/
theorem decode_encode (i : Instr) : decode (encode i) = .ok i := by
  cases i with
  | wireRead code hi => simp [encode, decode, decodeFrame]
  | wireWrite16 code v hi => simp [encode, decode, decodeFrame]
  | _ => simp [encode, decode, decodeWord, accept]

theorem packWord_of_op {w : Word} {op : BitVec 4} (hop : opField w = op) (hres : reservedField w = 0#5) :
    packWord op (codeField w) (hiField w) (imm16Field w) = w :=
  hop ▸ packWord_fields w hres

/-- An operation with neither code nor `hi` is packed from its `op` and immediate alone (R62). -/
theorem packWord_of_lowClear {w : Word} {op : BitVec 4} (hop : opField w = op) (h : lowClear w = true) :
    packWord op 0#5 0#2 (imm16Field w) = w := by
  obtain ⟨hcode, hhi, hres⟩ := lowClear_iff.1 h
  rw [← hcode, ← hhi, packWord_of_op hop hres]

/-- The same with an 8-bit operand in the immediate's lower byte. -/
theorem packWord_of_byteOperand {w : Word} {op : BitVec 4} (hop : opField w = op)
    (h : (lowClear w && topField w == 0#8) = true) : packWord op 0#5 0#2 (immOfByte (cmdField w)) = w := by
  rw [Bool.and_eq_true, beq_iff_eq] at h
  rw [immOfByte_cmdField h.2, packWord_of_lowClear hop h.1]

theorem encode_of_decodeWord {w : Word} {i : Instr} (h : decodeWord w = .ok i) : encode i = .word w := by
  unfold decodeWord at h
  simp only at h
  split_ifs at h with h1 h2 h3 h4 h5 h6 h7 h8 <;> obtain ⟨hz, rfl⟩ := accept_eq_ok_iff.1 h
  · rw [Bool.and_eq_true, beq_iff_eq, beq_iff_eq] at hz
    obtain ⟨hres, himm⟩ := hz
    exact congrArg Encoding.word (himm ▸ packWord_of_op h1 hres)
  · exact congrArg Encoding.word (packWord_of_op h2 (eq_of_beq hz))
  · exact congrArg Encoding.word (packWord_of_byteOperand h3 hz)
  · exact congrArg Encoding.word (packWord_of_byteOperand h4 hz)
  · exact congrArg Encoding.word (packWord_of_byteOperand h5 hz)
  · exact congrArg Encoding.word (packWord_of_lowClear h6 hz)
  · exact congrArg Encoding.word (packWord_of_lowClear h7 hz)
  · exact congrArg Encoding.word (packWord_of_byteOperand h8 hz)

theorem controlByte_of_ctrlDir {c : Byte} {dir : BitVec 1} (h : ctrlDir c = dir) :
    controlByte (ctrlHi c) dir (ctrlCode c) = c :=
  h ▸ controlByte_fields c

theorem encode_of_decodeFrame {bs : List Byte} {i : Instr} (h : decodeFrame bs = .ok i) : encode i = .frame bs := by
  match bs, h with
  | [c], h =>
    simp only [decodeFrame] at h
    split_ifs at h with hd
    cases h
    simp [encode, controlByte_of_ctrlDir hd]
  | [c, lo, hi], h =>
    simp only [decodeFrame] at h
    split_ifs at h with hd
    cases h
    simp [encode, controlByte_of_ctrlDir hd]

/-- An encoding decodes to an operation exactly when it is the one the encoder writes for it (R65, R67). -/
theorem decode_eq_ok_iff {e : Encoding} {i : Instr} : decode e = .ok i ↔ encode i = e := by
  refine ⟨fun h => ?_, fun h => h ▸ decode_encode i⟩
  cases e with
  | word w => exact encode_of_decodeWord h
  | frame bs => exact encode_of_decodeFrame h

end Sys2Proof.Machine
end

section
open Sys2Proof Sys2Proof.Machine

/-- Settles O1: each field of a packed word or control byte reads back as it was packed. -/
theorem everyInstructionDecodesBack : Obligations.EveryInstructionDecodesBack := decode_encode

/-- Settles O2: the decoder demands that the bits it does not read be 0. -/
theorem decodedEncodingIsTheOnlyOne : Obligations.DecodedEncodingIsTheOnlyOne :=
  fun _ _ => decode_eq_ok_iff.1

/-- Settles O7, by running the decoder on each word. -/
theorem sampleWordsDecode : Obligations.SampleWordsDecode := by
  unfold Obligations.SampleWordsDecode
  decide

end

section
/-! The opcode table as a decoder: masks and patterns field by field (R62, R76). -/

namespace Sys2Proof.Machine

/-- Words that agree on a field agree on each bit of it. -/
theorem getLsbD_eq_of_field {a b : Word} {start len i : Nat} (h : a.extractLsb' start len = b.extractLsb' start len)
    (hlo : start ≤ i) (hhi : i < start + len) : a.getLsbD i = b.getLsbD i := by
  have hbit := congrArg (fun x => x.getLsbD (i - start)) h
  simpa [show i - start < len by omega, show start + (i - start) = i by omega] using hbit

/-- Two words are the same when their six fields are, the immediate taken as its two bytes (R62). -/
theorem word_eq_iff_fields {a b : Word} :
    a = b ↔ opField a = opField b ∧ codeField a = codeField b ∧ hiField a = hiField b ∧
      reservedField a = reservedField b ∧ cmdField a = cmdField b ∧ topField a = topField b := by
  refine ⟨fun h => by simp [h], fun ⟨hop, hcode, hhi, hres, hcmd, htop⟩ => BitVec.eq_of_getLsbD_eq fun i hi => ?_⟩
  obtain h | h | h | h | h | h : i < 4 ∨ 4 ≤ i ∧ i < 9 ∨ 9 ≤ i ∧ i < 11 ∨ 11 ≤ i ∧ i < 16 ∨
      16 ≤ i ∧ i < 24 ∨ 24 ≤ i := by omega
  · exact getLsbD_eq_of_field hop i.zero_le (by omega)
  · exact getLsbD_eq_of_field hcode h.1 h.2
  · exact getLsbD_eq_of_field hhi h.1 h.2
  · exact getLsbD_eq_of_field hres h.1 h.2
  · exact getLsbD_eq_of_field hcmd h.1 h.2
  · exact getLsbD_eq_of_field htop h (by omega)

/-- A word matches a row when each of its fields, under that field of the mask, is the row's. -/
theorem and_eq_iff_fields {w mask bits : Word} :
    w &&& mask = bits ↔ opField w &&& opField mask = opField bits ∧ codeField w &&& codeField mask = codeField bits ∧
      hiField w &&& hiField mask = hiField bits ∧ reservedField w &&& reservedField mask = reservedField bits ∧
      cmdField w &&& cmdField mask = cmdField bits ∧ topField w &&& topField mask = topField bits := by
  rw [word_eq_iff_fields]
  simp only [opField, codeField, hiField, reservedField, cmdField, topField, BitVec.extractLsb'_and]

theorem imm16Field_eq_zero_iff {w : Word} : imm16Field w = 0#16 ↔ cmdField w = 0#8 ∧ topField w = 0#8 := by
  rw [cmdField_eq, topField_eq]
  refine ⟨fun h => h ▸ ⟨rfl, rfl⟩, fun ⟨hlo, hhi⟩ => ?_⟩
  rw [← le16_bytes (imm16Field w), hlo, hhi]
  rfl

/-- The mask of ENC.RD leaves `code` and `hi` free. -/
theorem and_encRd_mask {w : Word} : w &&& 0xFFFFF80F#32 = 0x00000001#32 ↔
    opField w = 0x1#4 ∧ reservedField w = 0#5 ∧ cmdField w = 0#8 ∧ topField w = 0#8 := by
  have h : w &&& 0xFFFFF80F#32 = 0x00000001#32 ↔ opField w &&& BitVec.allOnes 4 = 0x1#4 ∧ codeField w &&& 0#5 = 0#5 ∧
      hiField w &&& 0#2 = 0#2 ∧ reservedField w &&& BitVec.allOnes 5 = 0#5 ∧ cmdField w &&& BitVec.allOnes 8 = 0#8 ∧
      topField w &&& BitVec.allOnes 8 = 0#8 := and_eq_iff_fields
  simpa only [BitVec.and_allOnes, BitVec.and_zero, true_and] using h

/-- The mask of ENC.WR16 leaves the immediate free too. -/
theorem and_encWr16_mask {w : Word} : w &&& 0x0000F80F#32 = 0x00000002#32 ↔
    opField w = 0x2#4 ∧ reservedField w = 0#5 := by
  have h : w &&& 0x0000F80F#32 = 0x00000002#32 ↔ opField w &&& BitVec.allOnes 4 = 0x2#4 ∧ codeField w &&& 0#5 = 0#5 ∧
      hiField w &&& 0#2 = 0#2 ∧ reservedField w &&& BitVec.allOnes 5 = 0#5 ∧ cmdField w &&& 0#8 = 0#8 ∧
      topField w &&& 0#8 = 0#8 := and_eq_iff_fields
  simpa only [BitVec.and_allOnes, BitVec.and_zero, true_and, and_true] using h

@[simp] theorem lowByte_zero : lowByte 0#16 = 0#8 := rfl
@[simp] theorem highByte_zero : highByte 0#16 = 0#8 := rfl

/-- The mask of the operations with an 8-bit operand leaves `W[23:16]` free. -/
theorem and_byteOperand_mask {w : Word} {op : BitVec 4} : w &&& 0xFF00FFFF#32 = packWord op 0#5 0#2 0#16 ↔
    opField w = op ∧ codeField w = 0#5 ∧ hiField w = 0#2 ∧ reservedField w = 0#5 ∧ topField w = 0#8 := by
  have h : w &&& 0xFF00FFFF#32 = packWord op 0#5 0#2 0#16 ↔ opField w &&& BitVec.allOnes 4 = _ ∧
      codeField w &&& BitVec.allOnes 5 = _ ∧ hiField w &&& BitVec.allOnes 2 = _ ∧
      reservedField w &&& BitVec.allOnes 5 = _ ∧ cmdField w &&& 0#8 = _ ∧ topField w &&& BitVec.allOnes 8 = _ :=
    and_eq_iff_fields
  simp only [BitVec.and_allOnes] at h
  simpa using h

/-- The mask of the temperature operations leaves the immediate free. -/
theorem and_halfOperand_mask {w : Word} {op : BitVec 4} : w &&& 0x0000FFFF#32 = packWord op 0#5 0#2 0#16 ↔
    opField w = op ∧ codeField w = 0#5 ∧ hiField w = 0#2 ∧ reservedField w = 0#5 := by
  have h : w &&& 0x0000FFFF#32 = packWord op 0#5 0#2 0#16 ↔ opField w &&& BitVec.allOnes 4 = _ ∧
      codeField w &&& BitVec.allOnes 5 = _ ∧ hiField w &&& BitVec.allOnes 2 = _ ∧
      reservedField w &&& BitVec.allOnes 5 = _ ∧ cmdField w &&& 0#8 = _ ∧ topField w &&& 0#8 = _ :=
    and_eq_iff_fields
  simp only [BitVec.and_allOnes] at h
  simpa using h

theorem decodeWord_eq_ok_iff {w : Word} {i : Instr} : decodeWord w = .ok i ↔ encode i = .word w :=
  decode_eq_ok_iff (e := .word w)

theorem word_packWord_eq_iff {w : Word} {op : BitVec 4} {code : Code} {hi : Hi} {imm : Half} :
    Encoding.word (packWord op code hi imm) = .word w ↔ op = opField w ∧ code = codeField w ∧ hi = hiField w ∧
      0#5 = reservedField w ∧ lowByte imm = cmdField w ∧ highByte imm = topField w := by
  rw [Encoding.word.injEq, word_eq_iff_fields]
  simp

theorem decodeWord_encRd_iff {w : Word} :
    decodeWord w = .ok (.encRd (codeField w) (hiField w)) ↔ w &&& 0xFFFFF80F#32 = 0x00000001#32 := by
  rw [decodeWord_eq_ok_iff, encode, word_packWord_eq_iff, and_encRd_mask]
  simp [eq_comm]

theorem decodeWord_encWr16_iff {w : Word} :
    decodeWord w = .ok (.encWr16 (codeField w) (imm16Field w) (hiField w)) ↔ w &&& 0x0000F80F#32 = 0x00000002#32 := by
  rw [decodeWord_eq_ok_iff, encode, word_packWord_eq_iff, and_encWr16_mask]
  simp [eq_comm, cmdField_eq, topField_eq]

theorem encode_byteOperand_iff {w : Word} (op : BitVec 4) :
    Encoding.word (packWord op 0#5 0#2 (immOfByte (cmdField w))) = .word w ↔
      w &&& 0xFF00FFFF#32 = packWord op 0#5 0#2 0#16 := by
  rw [word_packWord_eq_iff, and_byteOperand_mask]
  simp [eq_comm]

theorem encode_halfOperand_iff {w : Word} (op : BitVec 4) :
    Encoding.word (packWord op 0#5 0#2 (imm16Field w)) = .word w ↔
      w &&& 0x0000FFFF#32 = packWord op 0#5 0#2 0#16 := by
  rw [word_packWord_eq_iff, and_halfOperand_mask]
  simp [eq_comm, cmdField_eq, topField_eq]

theorem decodeWord_decR16_iff {w : Word} :
    decodeWord w = .ok (.decR16 (cmdField w)) ↔ w &&& 0xFF00FFFF#32 = 0x00000003#32 :=
  decodeWord_eq_ok_iff.trans (encode_byteOperand_iff 0x3#4)

theorem decodeWord_decR8_iff {w : Word} :
    decodeWord w = .ok (.decR8 (cmdField w)) ↔ w &&& 0xFF00FFFF#32 = 0x00000004#32 :=
  decodeWord_eq_ok_iff.trans (encode_byteOperand_iff 0x4#4)

theorem decodeWord_decAck_iff {w : Word} :
    decodeWord w = .ok (.decAck (cmdField w)) ↔ w &&& 0xFF00FFFF#32 = 0x00000005#32 :=
  decodeWord_eq_ok_iff.trans (encode_byteOperand_iff 0x5#4)

theorem decodeWord_tempDec_iff {w : Word} :
    decodeWord w = .ok (.tempDec (imm16Field w)) ↔ w &&& 0x0000FFFF#32 = 0x00000006#32 :=
  decodeWord_eq_ok_iff.trans (encode_halfOperand_iff 0x6#4)

theorem decodeWord_tempEnc_iff {w : Word} :
    decodeWord w = .ok (.tempEnc (imm16Field w)) ↔ w &&& 0x0000FFFF#32 = 0x00000007#32 :=
  decodeWord_eq_ok_iff.trans (encode_halfOperand_iff 0x7#4)

theorem decodeWord_faultUnpack_iff {w : Word} :
    decodeWord w = .ok (.faultUnpack (cmdField w)) ↔ w &&& 0xFF00FFFF#32 = 0x00000008#32 :=
  decodeWord_eq_ok_iff.trans (encode_byteOperand_iff 0x8#4)

/-- A word that matches a row of the opcode table decodes to the row's operation (R76). -/
theorem decodeWord_of_row {w : Word} {row : OpcodeRow} (hrow : row ∈ opcodeRows) (h : w &&& row.mask = row.matchBits) :
    ∃ i, decodeWord w = .ok i := by
  simp only [opcodeRows, List.mem_cons, List.not_mem_nil, or_false] at hrow
  obtain rfl | rfl | rfl | rfl | rfl | rfl | rfl | rfl := hrow
  · exact ⟨_, decodeWord_encRd_iff.2 h⟩
  · exact ⟨_, decodeWord_encWr16_iff.2 h⟩
  · exact ⟨_, decodeWord_decR16_iff.2 h⟩
  · exact ⟨_, decodeWord_decR8_iff.2 h⟩
  · exact ⟨_, decodeWord_decAck_iff.2 h⟩
  · exact ⟨_, decodeWord_tempDec_iff.2 h⟩
  · exact ⟨_, decodeWord_tempEnc_iff.2 h⟩
  · exact ⟨_, decodeWord_faultUnpack_iff.2 h⟩

/-- What the encoder writes is well-formed: each constructor's lemma (R62, R67, R76). -/
theorem encode_wellFormed (i : Instr) : (encode i).wellFormed = true := by
  cases i with
  | encRd code hi => exact Laws.EncodingWellFormed.encRd code hi
  | encWr16 code v hi => exact Laws.EncodingWellFormed.encWr16 code v hi
  | decR16 cmd => exact Laws.EncodingWellFormed.decR16 cmd
  | decR8 cmd => exact Laws.EncodingWellFormed.decR8 cmd
  | decAck cmd => exact Laws.EncodingWellFormed.decAck cmd
  | tempDec v => exact Laws.EncodingWellFormed.tempDec v
  | tempEnc v => exact Laws.EncodingWellFormed.tempEnc v
  | faultUnpack m => exact Laws.EncodingWellFormed.faultUnpack m
  | wireRead code hi => exact Laws.EncodingWellFormed.wireRead code hi
  | wireWrite16 code v hi => exact Laws.EncodingWellFormed.wireWrite16 code v hi

theorem wellFormed_word_iff {w : Word} :
    (Encoding.word w).wellFormed = true ↔ ∃ row ∈ opcodeRows, w &&& row.mask = row.matchBits := by
  simp [Encoding.wellFormed, rowMatches]

/-- Every row's mask covers the operation number, and no two rows have the same one (R63). -/
theorem opcodeRow_eq_of_matches {w : Word} {row₁ row₂ : OpcodeRow} (h₁ : row₁ ∈ opcodeRows) (h₂ : row₂ ∈ opcodeRows)
    (hw₁ : w &&& row₁.mask = row₁.matchBits) (hw₂ : w &&& row₂.mask = row₂.matchBits) : row₁ = row₂ := by
  have hop : ∀ row ∈ opcodeRows, w &&& row.mask = row.matchBits → opField w = opField row.matchBits := by
    intro row hrow hw
    have hmask : ∀ row ∈ opcodeRows, opField row.mask = BitVec.allOnes 4 := by decide
    obtain ⟨h, -⟩ := and_eq_iff_fields.1 hw
    rwa [hmask row hrow, BitVec.and_allOnes] at h
  have hdistinct : ∀ row₁ ∈ opcodeRows, ∀ row₂ ∈ opcodeRows,
      opField row₁.matchBits = opField row₂.matchBits → row₁ = row₂ := by decide
  exact hdistinct row₁ h₁ row₂ h₂ ((hop row₁ h₁ hw₁).symm.trans (hop row₂ h₂ hw₂))

end Sys2Proof.Machine
end

section
/-! The direction bit of a control byte under the wire rows' mask (R61, R76). -/

namespace Sys2Proof.Machine

/-- The wire rows' mask keeps the direction bit and clears the rest. -/
theorem and_wire_mask (c : Byte) : c &&& 0x20#8 = controlByte 0#2 (ctrlDir c) 0#5 := by
  have hfields : ctrlHi (c &&& 0x20#8) = ctrlHi c &&& 0#2 ∧ ctrlDir (c &&& 0x20#8) = ctrlDir c &&& BitVec.allOnes 1 ∧
      ctrlCode (c &&& 0x20#8) = ctrlCode c &&& 0#5 :=
    ⟨BitVec.extractLsb'_and, BitVec.extractLsb'_and, BitVec.extractLsb'_and⟩
  simp only [BitVec.and_zero, BitVec.and_allOnes] at hfields
  obtain ⟨hhi, hdir, hcode⟩ := hfields
  rw [← controlByte_fields (c &&& 0x20#8), hhi, hdir, hcode]

theorem and_wire_mask_eq_iff {c : Byte} {dir : BitVec 1} :
    c &&& 0x20#8 = controlByte 0#2 dir 0#5 ↔ ctrlDir c = dir := by
  rw [and_wire_mask]
  exact ⟨fun h => by simpa using congrArg ctrlDir h, fun h => h ▸ rfl⟩

theorem decodeFrame_wireRead_iff {c : Byte} :
    decodeFrame [c] = .ok (.wireRead (ctrlCode c) (ctrlHi c)) ↔ c &&& 0x20#8 = 0x00#8 := by
  refine Iff.trans ?_ (and_wire_mask_eq_iff (dir := 0#1)).symm
  simp [decodeFrame]

theorem decodeFrame_wireWrite16_iff {c lo hi : Byte} :
    decodeFrame [c, lo, hi] = .ok (.wireWrite16 (ctrlCode c) (le16 lo hi) (ctrlHi c)) ↔ c &&& 0x20#8 = 0x20#8 := by
  refine Iff.trans ?_ (and_wire_mask_eq_iff (dir := 1#1)).symm
  simp [decodeFrame]

end Sys2Proof.Machine
end

section
/-! How a presented request word ends (R62, R65). -/

namespace Sys2Proof.Machine

theorem runsAs_of_decodeWord {w : Word} {i : Instr} (h : decodeWord w = .ok i) : RunsAs w i :=
  fun _ _ _ htodo => (step_present htodo).trans (operate_decoded (e := .word w) h _)

theorem endsIllegal_of_no_operation {w : Word} (h : ∀ i, encode i ≠ .word w) : EndsIllegal w := by
  intro s r rest htodo
  cases hd : decodeWord w with
  | ok i => exact absurd (decodeWord_eq_ok_iff.1 hd) (h i)
  | error reject => exact (step_present htodo).trans (operate_rejected (e := .word w) hd _)

/-- The layout of R62: which fields a request word of an operation has at 0, and the operation numbers there are. -/
theorem fields_of_encode {w : Word} {i : Instr} (h : encode i = .word w) :
    reservedField w = 0#5 ∧ (opField w ≠ 0x1#4 → opField w ≠ 0x2#4 → codeField w = 0#5 ∧ hiField w = 0#2) ∧
      (opField w = 0x1#4 → imm16Field w = 0#16) ∧
      (opField w ∈ [0x3#4, 0x4#4, 0x5#4, 0x8#4] → topField w = 0#8) ∧ opField w ≠ 0x0#4 ∧ (opField w).toNat < 9 := by
  cases i with
  | wireRead code hi => cases h
  | wireWrite16 code v hi => cases h
  | _ => cases h; simp

/-- `W[10:4]` is `hi` above `code` (R62). -/
theorem extractLsb'_code_hi (w : Word) : w.extractLsb' 4 7 = hiField w ++ codeField w :=
  (BitVec.extractLsb'_append_extractLsb'_eq_extractLsb' (start₁ := 4) (len₁ := 5) (len₂ := 2) (x := w) rfl).symm

end Sys2Proof.Machine
end

section
open Sys2Proof Sys2Proof.Machine

/-- Settles O6: an operation's encoding is well-formed, and each row and each frame length has its operation. -/
theorem decoderAcceptsExactlyWellFormed : Obligations.DecoderAcceptsExactlyWellFormed := by
  refine fun e => ⟨fun ⟨i, hi⟩ => decode_eq_ok_iff.1 hi ▸ encode_wellFormed i, fun h => ?_⟩
  cases e with
  | word w =>
    obtain ⟨row, hrow, hmatch⟩ := wellFormed_word_iff.1 h
    exact decodeWord_of_row hrow hmatch
  | frame bs => exact decode_frame_of_wellFormed h

/-- Settles O3: each row's mask and pattern say what the fields of its operation are, and an operation's word matches a
row. -/
theorem requestWordIsTheRowItMatches : Obligations.RequestWordIsTheRowItMatches := by
  refine ⟨fun w => ⟨decodeWord_encRd_iff, decodeWord_encWr16_iff, decodeWord_decR16_iff, decodeWord_decR8_iff,
    decodeWord_decAck_iff, decodeWord_tempDec_iff, decodeWord_tempEnc_iff, decodeWord_faultUnpack_iff, fun hno => ?_⟩,
    fun row₁ h₁ row₂ h₂ w => opcodeRow_eq_of_matches h₁ h₂,
    fun c lo hi => ⟨decodeFrame_wireRead_iff, decodeFrame_wireWrite16_iff⟩⟩
  refine endsIllegal_of_no_operation fun i hi => ?_
  obtain ⟨row, hrow, hmatch⟩ := wellFormed_word_iff.1 (hi ▸ encode_wellFormed i)
  exact hno row hrow hmatch

/-- Settles O4: a word is the encoding of the one operation it decodes to or of none, and an operation's word has its
must-be-zero fields 0. -/
theorem requestWordIsOneOperationOrIllegal : Obligations.RequestWordIsOneOperationOrIllegal := by
  refine fun w => ⟨?_, fun h => ?_, fun h1 h2 h => ?_, fun hop h => ?_, fun hop h => ?_⟩
  · by_cases hw : ∃ i, encode i = .word w
    · obtain ⟨i, hi⟩ := hw
      have hd := decodeWord_eq_ok_iff.2 hi
      refine .inl ⟨i, hi, runsAs_of_decodeWord hd, fun j hj => ?_⟩
      exact Except.ok.inj ((decodeWord_eq_ok_iff.2 hj).symm.trans hd)
    · have hno := not_exists.1 hw
      exact .inr ⟨hno, endsIllegal_of_no_operation hno⟩
  all_goals refine endsIllegal_of_no_operation fun i hi => h ?_
  all_goals obtain ⟨hres, hlow, himm, htop, -⟩ := fields_of_encode hi
  · exact hres
  · obtain ⟨hcode, hhi⟩ := hlow h1 h2
    rw [extractLsb'_code_hi, hcode, hhi]
    rfl
  · exact himm hop
  · exact htop hop

/-- Settles O5: no operation has such a number. -/
theorem reservedOperationsEndIllegal : Obligations.ReservedOperationsEndIllegal := by
  refine fun w hop => endsIllegal_of_no_operation fun i hi => ?_
  obtain ⟨-, -, -, -, hne, hlt⟩ := fields_of_encode hi
  exact hop.elim hne fun hge => absurd hlt hge.not_gt

end

section
/-! The bytes of the encode operations' frames (R100, R101). -/

namespace Sys2Proof.Machine

theorem encRd_frame {code : Code} {hi : Hi} {s t : State} (h : exec (.encRd code hi) s = .next t) :
    t.out.flen = some 1#2 ∧ t.out.F0 = some (controlByte hi 0#1 code) := by
  rw [exec_eq] at h
  cases h
  exact ⟨rfl, rfl⟩

theorem encWr16_frame {code : Code} {v : Half} {hi : Hi} {s t : State} (h : exec (.encWr16 code v hi) s = .next t) :
    t.out.flen = some 3#2 ∧ t.out.F0 = some (controlByte hi 1#1 code) := by
  rw [exec_eq] at h
  cases h
  exact ⟨rfl, rfl⟩

end Sys2Proof.Machine
end

section
open Sys2Proof Sys2Proof.Machine

/-- Settles O21: the fields of the control byte and the payload read back from the frame's bytes. -/
theorem encodedFramesKeepTheirFields : Obligations.EncodedFramesKeepTheirFields := by
  refine fun code imm16 hi s t => ⟨fun h => ?_, fun h => ?_⟩
  · obtain ⟨hlen, hctrl⟩ := encRd_frame h
    exact ⟨hlen, _, hctrl, ctrlCode_controlByte .., ctrlDir_controlByte .., ctrlHi_controlByte ..⟩
  · obtain ⟨hlen, hctrl⟩ := encWr16_frame h
    obtain ⟨hlow, hhigh⟩ := encWr16_payload h
    exact ⟨hlen, _, _, _, hctrl, hlow, hhigh, ctrlCode_controlByte .., ctrlDir_controlByte .., ctrlHi_controlByte ..,
      le16_bytes imm16⟩

end

section
/-! The number of a packed word, and what the assembler makes of an operand (R62, R73). -/

namespace Sys2Proof.Machine

/-- The value of `{x, y}`: `y` stands in the low bits (R62). -/
theorem toNat_append_eq {m n : Nat} (x : BitVec m) (y : BitVec n) : (x ++ y).toNat = 2 ^ n * x.toNat + y.toNat := by
  rw [BitVec.toNat_append, ← Nat.shiftLeft_add_eq_or_of_lt y.isLt, Nat.shiftLeft_eq, Nat.mul_comm]

theorem toNat_packWord (op : BitVec 4) (code : Code) (hi : Hi) (imm : Half) :
    (packWord op code hi imm).toNat = op.toNat + 16 * code.toNat + 512 * hi.toNat + 65536 * imm.toNat := by
  unfold packWord
  rw [toNat_append_eq, toNat_append_eq, toNat_append_eq, toNat_append_eq, BitVec.toNat_ofNat]
  omega

theorem toNat_immOfByte (b : Byte) : (immOfByte b).toNat = b.toNat := by
  unfold immOfByte
  rw [toNat_append_eq]
  simp

theorem asmUnsigned_of_inRange {width : Nat} {x : AsmNumber} (h : UnsignedInRange width x) :
    ∃ b, asmUnsigned width x = .ok b ∧ (b.toNat : Int) = asmValue x := by
  refine ⟨_, if_pos h, ?_⟩
  have hmod : asmValue x % (2 ^ width : Nat) = asmValue x := Int.emod_eq_of_lt h.1 (mod_cast h.2)
  rw [BitVec.toNat_ofInt, hmod, Int.toNat_of_nonneg h.1]

theorem asmUnsigned_of_not_inRange {width : Nat} {x : AsmNumber} (h : ¬ UnsignedInRange width x) :
    asmUnsigned width x = .error .outOfRange := if_neg h

theorem asmImm_of_inRange {x : AsmNumber} (h : ImmInRange x) :
    ∃ v, asmImm x = .ok v ∧ (v.toNat : Int) = asmValue x % 65536 := by
  cases x with
  | decimal n =>
    refine ⟨_, if_pos h, ?_⟩
    rw [BitVec.toNat_ofInt]
    exact Int.toNat_of_nonneg (Int.emod_nonneg n (by decide))
  | hex n => exact ⟨_, if_pos h, congrArg Nat.cast (BitVec.toNat_ofNat n 16)⟩
  | binary n => exact h.elim

theorem asmImm_of_not_inRange {x : AsmNumber} (h : ¬ ImmInRange x) : ∃ e, asmImm x = .error e := by
  cases x with
  | decimal n => exact ⟨_, if_neg h⟩
  | hex n => exact ⟨_, if_neg h⟩
  | binary n => exact ⟨_, rfl⟩

theorem asmUnsigned_byteOperand {cmd : AsmNumber} (op : BitVec 4) (h : UnsignedInRange 8 cmd) :
    ∃ b, asmUnsigned 8 cmd = .ok b ∧
      ((packWord op 0#5 0#2 (immOfByte b)).toNat : Int) = op.toNat + 65536 * asmValue cmd := by
  obtain ⟨b, hb, hval⟩ := asmUnsigned_of_inRange h
  refine ⟨b, hb, ?_⟩
  simp [toNat_packWord, toNat_immOfByte, hval]

theorem asmImm_halfOperand {imm : AsmNumber} (op : BitVec 4) (h : ImmInRange imm) :
    ∃ v, asmImm imm = .ok v ∧
      ((packWord op 0#5 0#2 v).toNat : Int) = op.toNat + 65536 * (asmValue imm % 65536) := by
  obtain ⟨v, hv, hval⟩ := asmImm_of_inRange h
  refine ⟨v, hv, ?_⟩
  simp [toNat_packWord, hval]

/-- A line whose operands are in range assembles to the word R62 lays out. -/
theorem assemble_of_inRange {l : AsmLine} (h : l.InRange) :
    ∃ i w, assemble l = .ok i ∧ encode i = .word w ∧ (w.toNat : Int) = asmWordNumber l := by
  cases l with
  | encRd code hi =>
    obtain ⟨hcode, hhi⟩ := h
    obtain ⟨c, hc, hcval⟩ := asmUnsigned_of_inRange hcode
    obtain ⟨b, hb, hbval⟩ := asmUnsigned_of_inRange hhi
    refine ⟨.encRd c b, _, by rw [assemble, hc, hb]; rfl, rfl, ?_⟩
    simp [toNat_packWord, asmWordNumber, hcval, hbval]
  | encWr16 code imm hi =>
    obtain ⟨hcode, himm, hhi⟩ := h
    obtain ⟨c, hc, hcval⟩ := asmUnsigned_of_inRange hcode
    obtain ⟨v, hv, hvval⟩ := asmImm_of_inRange himm
    obtain ⟨b, hb, hbval⟩ := asmUnsigned_of_inRange hhi
    refine ⟨.encWr16 c v b, _, by rw [assemble, hc, hv, hb]; rfl, rfl, ?_⟩
    simp [toNat_packWord, asmWordNumber, hcval, hvval, hbval]
  | decR16 cmd =>
    obtain ⟨b, hb, hw⟩ := asmUnsigned_byteOperand 0x3#4 h
    exact ⟨.decR16 b, _, by simp [assemble, hb], rfl, hw⟩
  | decR8 cmd =>
    obtain ⟨b, hb, hw⟩ := asmUnsigned_byteOperand 0x4#4 h
    exact ⟨.decR8 b, _, by simp [assemble, hb], rfl, hw⟩
  | decAck cmd =>
    obtain ⟨b, hb, hw⟩ := asmUnsigned_byteOperand 0x5#4 h
    exact ⟨.decAck b, _, by simp [assemble, hb], rfl, hw⟩
  | tempDec imm =>
    obtain ⟨v, hv, hw⟩ := asmImm_halfOperand 0x6#4 h
    exact ⟨.tempDec v, _, by simp [assemble, hv], rfl, hw⟩
  | tempEnc imm =>
    obtain ⟨v, hv, hw⟩ := asmImm_halfOperand 0x7#4 h
    exact ⟨.tempEnc v, _, by simp [assemble, hv], rfl, hw⟩
  | faultUnpack mask =>
    obtain ⟨b, hb, hw⟩ := asmUnsigned_byteOperand 0x8#4 h
    exact ⟨.faultUnpack b, _, by simp [assemble, hb], rfl, hw⟩

/-- A line with an operand out of range assembles to an error: that of its leftmost such operand. -/
theorem assemble_of_not_inRange {l : AsmLine} (h : ¬ l.InRange) : ∃ e, assemble l = .error e := by
  cases l with
  | encRd code hi =>
    by_cases hcode : UnsignedInRange 5 code
    · obtain ⟨c, hc, -⟩ := asmUnsigned_of_inRange hcode
      have hhi := asmUnsigned_of_not_inRange fun hhi => h ⟨hcode, hhi⟩
      exact ⟨.outOfRange, by rw [assemble, hc, hhi]; rfl⟩
    · exact ⟨.outOfRange, by rw [assemble, asmUnsigned_of_not_inRange hcode]; rfl⟩
  | encWr16 code imm hi =>
    by_cases hcode : UnsignedInRange 5 code
    · obtain ⟨c, hc, -⟩ := asmUnsigned_of_inRange hcode
      by_cases himm : ImmInRange imm
      · obtain ⟨v, hv, -⟩ := asmImm_of_inRange himm
        have hhi := asmUnsigned_of_not_inRange fun hhi => h ⟨hcode, himm, hhi⟩
        exact ⟨.outOfRange, by rw [assemble, hc, hv, hhi]; rfl⟩
      · obtain ⟨e, he⟩ := asmImm_of_not_inRange himm
        exact ⟨e, by rw [assemble, hc, he]; rfl⟩
    · exact ⟨.outOfRange, by rw [assemble, asmUnsigned_of_not_inRange hcode]; rfl⟩
  | tempDec imm =>
    obtain ⟨e, he⟩ := asmImm_of_not_inRange h
    exact ⟨e, by simp [assemble, he]⟩
  | tempEnc imm =>
    obtain ⟨e, he⟩ := asmImm_of_not_inRange h
    exact ⟨e, by simp [assemble, he]⟩
  | _ => exact ⟨.outOfRange, by simp [assemble, asmUnsigned_of_not_inRange h]⟩

end Sys2Proof.Machine
end

section
open Sys2Proof Sys2Proof.Machine

/-- Settles O45: each operand in range gives its field's value, and the first one that is not gives the error. -/
theorem assembledWordHasItsFields : Obligations.AssembledWordHasItsFields :=
  fun _ => ⟨assemble_of_inRange, assemble_of_not_inRange⟩

end

section
/-! One step of an accessor: an operation that the host issues, and how a sequence goes on or ends (R75). -/

namespace Sys2Proof.Machine

/-- The link after the host issued `i`: the operation's result on the bundle, and its frame at hand if it has one. -/
def Link.afterOp (i : Instr) (l : Link) : Link :=
  { l with
    cfc := drive (resultOf i l.cfc.R) (present ⟨encode i, l.cfc.R⟩ l.cfc.todo l.cfc)
    lastFrame := (frameOf (resultOf i l.cfc.R)).or l.lastFrame }

@[simp] theorem Link.afterOp_out (i : Instr) (l : Link) : (l.afterOp i).cfc.out = resultOf i l.cfc.R := rfl
@[simp] theorem Link.afterOp_R (i : Instr) (l : Link) : (l.afterOp i).cfc.R = l.cfc.R := by simp [Link.afterOp]
@[simp] theorem Link.afterOp_todo (i : Instr) (l : Link) : (l.afterOp i).cfc.todo = l.cfc.todo := by
  simp [Link.afterOp]
@[simp] theorem Link.afterOp_sent (i : Instr) (l : Link) : (l.afterOp i).sent = l.sent := rfl
@[simp] theorem Link.afterOp_incoming (i : Instr) (l : Link) : (l.afterOp i).incoming = l.incoming := rfl
@[simp] theorem Link.afterOp_lastFrame (i : Instr) (l : Link) :
    (l.afterOp i).lastFrame = (frameOf (resultOf i l.cfc.R)).or l.lastFrame := rfl

/-- What presenting leaves does not depend on the list the operation was taken from. -/
theorem present_todo_irrelevant (p : Presentation) (rest todo : List Presentation) (s : State) :
    present p rest { s with todo := todo } = present p rest s := by
  obtain ⟨e, r⟩ := p
  cases e <;> rfl

/-- The host issues an operation: it runs, since the decoder gives back what the encoder wrote. -/
theorem step_issued (i : Instr) (s : State) :
    step { s with todo := ⟨encode i, s.R⟩ :: s.todo } =
      .next (drive (resultOf i s.R) (present ⟨encode i, s.R⟩ s.todo s)) := by
  refine (step_next_iff rfl).2 ⟨_, presentedResult_decoded (decode_encode i) s.R, congrArg (drive _) ?_⟩
  exact (present_todo_irrelevant ..).symm

theorem issueOp_done {i : Instr} {l : Link} (h : (resultOf i l.cfc.R).st = some .ok) :
    issueOp i l = .done (l.afterOp i) := by
  simp [issueOp, step_issued, h, Link.afterOp]

theorem issueOp_failed {i : Instr} {l : Link} {st : Status} (h : (resultOf i l.cfc.R).st = some st) (hne : st ≠ .ok) :
    issueOp i l = .failed st (l.afterOp i) := by
  cases st <;> simp_all [issueOp, step_issued, Link.afterOp]

theorem hostStep_issue_done {i : Instr} {l : Link} (h : (resultOf i l.cfc.R).st = some .ok) :
    hostStep (.issue i) l = .done (l.afterOp i) :=
  issueOp_done h

theorem hostStep_issue_failed {i : Instr} {l : Link} {st : Status} (h : (resultOf i l.cfc.R).st = some st)
    (hne : st ≠ .ok) : hostStep (.issue i) l = .failed st (l.afterOp i) :=
  issueOp_failed h hne

theorem hostStep_encWr16Out {code : Code} {hi : Hi} {v : Half} {l : Link} (h : l.cfc.out.v16 = some v) :
    hostStep (.encWr16Out code hi) l = .done (l.afterOp (.encWr16 code v hi)) := by
  simp only [hostStep, h]
  exact issueOp_done rfl

theorem hostStep_tempDecOut {v : Half} {l : Link} (h : l.cfc.out.v16 = some v) :
    hostStep .tempDecOut l = .done (l.afterOp (.tempDec v)) := by
  simp only [hostStep, h]
  exact issueOp_done rfl

theorem hostStep_faultUnpackOut {m : Byte} {l : Link} (h : l.cfc.out.v8 = some m) :
    hostStep .faultUnpackOut l = .done (l.afterOp (.faultUnpack m)) := by
  simp only [hostStep, h]
  exact issueOp_done rfl

theorem runSteps_of_done {h : HostStep} {l l' : Link} (hs : List HostStep) (hstep : hostStep h l = .done l') :
    runSteps (h :: hs) l = runSteps hs l' := by
  simp [runSteps, hstep]

theorem runSteps_of_failed {h : HostStep} {l l' : Link} {st : Status} (hs : List HostStep)
    (hstep : hostStep h l = .failed st l') : runSteps (h :: hs) l = .failed st l' := by
  simp [runSteps, hstep]

theorem runSteps_of_hostFailed {h : HostStep} {l l' : Link} {e : HostError} (hs : List HostStep)
    (hstep : hostStep h l = .hostFailed e l') : runSteps (h :: hs) l = .hostFailed e l' := by
  simp [runSteps, hstep]

/-- What follows a failed sequence is not issued (R75, R210). -/
theorem runSteps_append_of_failed {done rest : List HostStep} {l l' : Link} {st : Status}
    (h : runSteps done l = .failed st l') : runSteps (done ++ rest) l = .failed st l' := by
  induction done generalizing l with
  | nil => cases h
  | cons step steps ih =>
    cases hstep : hostStep step l with
    | done next =>
      rw [runSteps_of_done _ hstep] at h
      exact (runSteps_of_done _ hstep).trans (ih h)
    | failed st' next =>
      rw [runSteps_of_failed _ hstep] at h
      exact (runSteps_of_failed _ hstep).trans h
    | hostFailed e next =>
      rw [runSteps_of_hostFailed _ hstep] at h
      cases h
    | stopped => simp [runSteps, hstep] at h

end Sys2Proof.Machine
end

section
/-! The parts every accessor has: a command, an exchange, a decode of the answer, and what is made of its value (R75). -/

namespace Sys2Proof.Machine

/-- The decode operation for an answer to `cmd` (R71). -/
def ReplyOp.instr (cmd : Byte) : ReplyOp → Instr
  | .r16 => .decR16 cmd
  | .r8 => .decR8 cmd
  | .ack => .decAck cmd

/-- The bundle of a decode operation whose check passes (R122 to R124). -/
def ReplyOp.valueOut (r : List Byte) : ReplyOp → Out
  | .r16 => value16Out (replyPayload16 r)
  | .r8 => value8Out (replyPayload8 r)
  | .ack => statusOnly .ok

theorem ReplyOp.resultOf_echo {d : ReplyOp} {cmd : Byte} {r : List Byte} (hlen : r.length = replyLength d)
    (hecho : replyByte r 0 = cmd) : resultOf (d.instr cmd) r = d.valueOut r := by
  have h : check (replyLength d) cmd r = .ok := check_ok.2 ⟨hlen, hecho⟩
  cases d with
  | r16 => exact if_pos h
  | r8 => exact if_pos h
  | ack => exact congrArg statusOnly h

theorem ReplyOp.resultOf_wrongEcho {d : ReplyOp} {cmd : Byte} {r : List Byte} (hlen : r.length = replyLength d)
    (hecho : replyByte r 0 ≠ cmd) : resultOf (d.instr cmd) r = statusOnly .codeMismatch := by
  have h : check (replyLength d) cmd r = .codeMismatch := check_codeMismatch.2 ⟨hlen, hecho⟩
  have hne : ¬ check (replyLength d) cmd r = .ok := by simp [h]
  cases d with
  | r16 => exact (if_neg hne).trans (congrArg statusOnly h)
  | r8 => exact (if_neg hne).trans (congrArg statusOnly h)
  | ack => exact congrArg statusOnly h

theorem ReplyOp.valueOut_st (d : ReplyOp) (r : List Byte) : (d.valueOut r).st = some .ok := by
  cases d <;> rfl

/-- The control byte an accessor sends, which its decode operation compares the echo with (R75, R243). -/
def Pseudo.ctrl : Pseudo → Byte
  | .idQuery => 0x41#8
  | .rdSetpoint => 0x41#8
  | .wrSetpoint _ => 0x61#8
  | .rdActual => 0x49#8
  | .rdLowLimit => 0x46#8
  | .wrLowLimit _ => 0x66#8
  | .rdHighLimit => 0x47#8
  | .wrHighLimit _ => 0x67#8
  | .rdFaults => 0x48#8

/-- The payload of the command an accessor sends: none for a read, the value for a write (R41, R75). -/
def Pseudo.payload : Pseudo → List Byte
  | .wrSetpoint t => [lowByte t, highByte t]
  | .wrLowLimit t => [lowByte t, highByte t]
  | .wrHighLimit t => [lowByte t, highByte t]
  | _ => []

/-- The decode operation an accessor gives the answer to (R75). -/
def Pseudo.replyOp : Pseudo → ReplyOp
  | .wrSetpoint _ => .ack
  | .wrLowLimit _ => .ack
  | .wrHighLimit _ => .ack
  | .rdFaults => .r8
  | _ => .r16

/-- What an accessor does with the decoded value (R75). -/
def Pseudo.finish : Pseudo → List HostStep
  | .rdSetpoint => [.tempDecOut]
  | .rdActual => [.tempDecOut]
  | .rdLowLimit => [.tempDecOut]
  | .rdHighLimit => [.tempDecOut]
  | .rdFaults => [.faultUnpackOut]
  | _ => []

/-- `l₁` is `l` with the command frame `f` at hand and nothing sent yet. -/
structure Link.Prepared (l l₁ : Link) (f : List Byte) : Prop where
  lastFrame : l₁.lastFrame = some f
  sent : l₁.sent = l.sent
  incoming : l₁.incoming = l.incoming
  todo : l₁.cfc.todo = l.cfc.todo

theorem frameOf_readFrameOut (hi : Hi) (code : Code) : frameOf (readFrameOut hi code) = some [controlByte hi 0#1 code] :=
  rfl

theorem frameOf_writeFrameOut (hi : Hi) (code : Code) (v : Half) :
    frameOf (writeFrameOut hi code v) = some [controlByte hi 1#1 code, lowByte v, highByte v] :=
  rfl

/-- ENC.RD at the start of an accessor prepares a read frame. -/
theorem runSteps_encRd (code : Code) (hi : Hi) (l : Link) (hs : List HostStep) :
    ∃ l₁, l.Prepared l₁ [controlByte hi 0#1 code] ∧
      runSteps (.issue (.encRd code hi) :: hs) l = runSteps hs l₁ := by
  refine ⟨l.afterOp (.encRd code hi), ⟨?_, rfl, rfl, ?_⟩, runSteps_of_done hs (hostStep_issue_done rfl)⟩
  · simp [resultOf, frameOf_readFrameOut]
  · simp

/-- TEMP.ENC and ENC.WR16 at the start of an accessor prepare a write frame. -/
theorem runSteps_tempEnc_encWr16 (t : Half) (code : Code) (hi : Hi) (l : Link) (hs : List HostStep) :
    ∃ l₁, l.Prepared l₁ [controlByte hi 1#1 code, lowByte t, highByte t] ∧
      runSteps (.issue (.tempEnc t) :: .encWr16Out code hi :: hs) l = runSteps hs l₁ := by
  refine ⟨(l.afterOp (.tempEnc t)).afterOp (.encWr16 code t hi), ⟨?_, rfl, rfl, ?_⟩, ?_⟩
  · simp [resultOf, frameOf_writeFrameOut]
  · simp
  · exact (runSteps_of_done _ (hostStep_issue_done rfl)).trans (runSteps_of_done hs (hostStep_encWr16Out rfl))

/-- Every accessor prepares its frame, exchanges it, decodes the answer and finishes (R75). -/
theorem runAccessor_parts (p : Pseudo) (l : Link) :
    ∃ l₁, l.Prepared l₁ (p.ctrl :: p.payload) ∧ runAccessor p l =
      runSteps (.xchg (replyLength p.replyOp) :: .issue (p.replyOp.instr p.ctrl) :: p.finish) l₁ := by
  cases p with
  | idQuery => exact runSteps_encRd 1#5 0b01#2 l _
  | rdSetpoint => exact runSteps_encRd 1#5 0b01#2 l _
  | wrSetpoint t => exact runSteps_tempEnc_encWr16 t 1#5 0b01#2 l _
  | rdActual => exact runSteps_encRd 9#5 0b01#2 l _
  | rdLowLimit => exact runSteps_encRd 6#5 0b01#2 l _
  | wrLowLimit t => exact runSteps_tempEnc_encWr16 t 6#5 0b01#2 l _
  | rdHighLimit => exact runSteps_encRd 7#5 0b01#2 l _
  | wrHighLimit t => exact runSteps_tempEnc_encWr16 t 7#5 0b01#2 l _
  | rdFaults => exact runSteps_encRd 8#5 0b01#2 l _

end Sys2Proof.Machine
end

section
/-! How an accessor goes on after its exchange, and how it ends (R74, R75, R206). -/

namespace Sys2Proof.Machine

/-- `l₁` is `l` after an exchange that sent `f` and put `r` on the reply port. -/
structure Link.Answered (l l₁ : Link) (f r : List Byte) : Prop where
  sent : l₁.sent = l.sent ++ [f]
  incoming : l₁.incoming = l.incoming.tail
  todo : l₁.cfc.todo = l.cfc.todo
  reply : l₁.cfc.R = r

/-- An operation issued after the exchange leaves what the exchange did. -/
theorem Link.Answered.afterOp {l l₁ : Link} {f r : List Byte} (h : l.Answered l₁ f r) (i : Instr) :
    l.Answered (l₁.afterOp i) f r :=
  ⟨h.sent, h.incoming, (l₁.afterOp_todo i).trans h.todo, (l₁.afterOp_R i).trans h.reply⟩

/-- With enough bytes to come, an accessor goes on to decode the first of them. -/
theorem runAccessor_answered {p : Pseudo} {l : Link} {bs r : List Byte} (ha : nextAnswer l.incoming = .bytes bs)
    (hr : bs.take (replyLength p.replyOp) = r) (hlen : r.length = replyLength p.replyOp) :
    ∃ l₁, l.Answered l₁ (p.ctrl :: p.payload) r ∧
      runAccessor p l = runSteps (.issue (p.replyOp.instr p.ctrl) :: p.finish) l₁ := by
  obtain ⟨l₀, hl₀, hrun⟩ := runAccessor_parts p l
  have hn : replyLength p.replyOp ≤ bs.length := by
    rw [← hr, List.length_take] at hlen
    omega
  have hx : hostStep (.xchg (replyLength p.replyOp)) l₀ = _ :=
    exchange_done hl₀.lastFrame (hl₀.incoming ▸ ha) hn
  refine ⟨_, ?_, hrun.trans (runSteps_of_done _ hx)⟩
  exact ⟨congrArg (· ++ [_]) hl₀.sent, congrArg List.tail hl₀.incoming, hl₀.todo, hr⟩

/-- An answer with the right echo is decoded, and the accessor goes on to what it does with the value. -/
theorem runAccessor_echo {p : Pseudo} {l : Link} {bs r : List Byte} (ha : nextAnswer l.incoming = .bytes bs)
    (hr : bs.take (replyLength p.replyOp) = r) (hlen : r.length = replyLength p.replyOp)
    (hecho : replyByte r 0 = p.ctrl) :
    ∃ l₁, l.Answered l₁ (p.ctrl :: p.payload) r ∧ l₁.cfc.out = p.replyOp.valueOut r ∧
      runAccessor p l = runSteps p.finish l₁ := by
  obtain ⟨l₁, hl₁, hrun⟩ := runAccessor_answered ha hr hlen
  have hout : resultOf (p.replyOp.instr p.ctrl) l₁.cfc.R = p.replyOp.valueOut r := by
    rw [hl₁.reply, ReplyOp.resultOf_echo hlen hecho]
  refine ⟨_, hl₁.afterOp _, hout, hrun.trans (runSteps_of_done _ (hostStep_issue_done ?_))⟩
  rw [hout, ReplyOp.valueOut_st]

/-- An answer with another first byte ends the accessor with CODE_MISMATCH. -/
theorem runAccessor_wrongEcho {p : Pseudo} {l : Link} {bs r : List Byte} (ha : nextAnswer l.incoming = .bytes bs)
    (hr : bs.take (replyLength p.replyOp) = r) (hlen : r.length = replyLength p.replyOp)
    (hecho : replyByte r 0 ≠ p.ctrl) :
    ∃ l₁, l.Answered l₁ (p.ctrl :: p.payload) r ∧ l₁.cfc.out = statusOnly .codeMismatch ∧
      runAccessor p l = .failed .codeMismatch l₁ := by
  obtain ⟨l₁, hl₁, hrun⟩ := runAccessor_answered ha hr hlen
  have hout : resultOf (p.replyOp.instr p.ctrl) l₁.cfc.R = statusOnly .codeMismatch := by
    rw [hl₁.reply, ReplyOp.resultOf_wrongEcho hlen hecho]
  refine ⟨_, hl₁.afterOp _, hout, hrun.trans (runSteps_of_failed _ (hostStep_issue_failed ?_ (by decide)))⟩
  rw [hout, statusOnly_st]

/-- Too few bytes end an accessor with Timeout. -/
theorem runAccessor_timeout {p : Pseudo} {l : Link} {bs : List Byte} (ha : nextAnswer l.incoming = .bytes bs)
    (hn : bs.length < replyLength p.replyOp) : ∃ l', runAccessor p l = .hostFailed .timeout l' := by
  obtain ⟨l₀, hl₀, hrun⟩ := runAccessor_parts p l
  exact ⟨_, hrun.trans (runSteps_of_hostFailed _ (exchange_timeout hl₀.lastFrame (hl₀.incoming ▸ ha) hn))⟩

/-- A failed transport ends an accessor with IoError. -/
theorem runAccessor_ioError {p : Pseudo} {l : Link} (ha : nextAnswer l.incoming = .broken) :
    ∃ l', runAccessor p l = .hostFailed .ioError l' := by
  obtain ⟨l₀, hl₀, hrun⟩ := runAccessor_parts p l
  exact ⟨_, hrun.trans (runSteps_of_hostFailed _ (exchange_ioError hl₀.lastFrame (hl₀.incoming ▸ ha)))⟩

theorem runSteps_tempDecOut {l : Link} {v : Half} (h : l.cfc.out.v16 = some v) :
    runSteps [.tempDecOut] l = .done (l.afterOp (.tempDec v)) :=
  runSteps_of_done [] (hostStep_tempDecOut h)

theorem runSteps_faultUnpackOut {l : Link} {m : Byte} (h : l.cfc.out.v8 = some m) :
    runSteps [.faultUnpackOut] l = .done (l.afterOp (.faultUnpack m)) :=
  runSteps_of_done [] (hostStep_faultUnpackOut h)

/-- The decoded value is the operand that the rest of the accessor asks for. -/
theorem runSteps_finish_done {p : Pseudo} {l : Link} {r : List Byte} (h : l.cfc.out = p.replyOp.valueOut r) :
    ∃ l', runSteps p.finish l = .done l' := by
  have htemp (hp : p.replyOp = .r16) : l.cfc.out.v16 = some (replyPayload16 r) := by rw [h, hp]; rfl
  have hfault (hp : p.replyOp = .r8) : l.cfc.out.v8 = some (replyPayload8 r) := by rw [h, hp]; rfl
  cases p with
  | rdSetpoint => exact ⟨_, runSteps_tempDecOut (htemp rfl)⟩
  | rdActual => exact ⟨_, runSteps_tempDecOut (htemp rfl)⟩
  | rdLowLimit => exact ⟨_, runSteps_tempDecOut (htemp rfl)⟩
  | rdHighLimit => exact ⟨_, runSteps_tempDecOut (htemp rfl)⟩
  | rdFaults => exact ⟨_, runSteps_faultUnpackOut (hfault rfl)⟩
  | _ => exact ⟨l, rfl⟩

end Sys2Proof.Machine
end

section
open Sys2Proof Sys2Proof.Machine

/-- Settles O50: by what answers the exchange, and then by the echo. -/
theorem accessorsNeverGetStuck : Obligations.AccessorsNeverGetStuck := by
  intro p l
  cases ha : nextAnswer l.incoming with
  | broken => exact .inr (.inr (.inr (runAccessor_ioError ha)))
  | bytes bs =>
    by_cases hn : bs.length < replyLength p.replyOp
    · exact .inr (.inr (.inl (runAccessor_timeout ha hn)))
    · have hlen : (bs.take (replyLength p.replyOp)).length = replyLength p.replyOp :=
        List.length_take_of_le (Nat.le_of_not_lt hn)
      by_cases hecho : replyByte (bs.take (replyLength p.replyOp)) 0 = p.ctrl
      · obtain ⟨l₁, -, hout, hrun⟩ := runAccessor_echo ha rfl hlen hecho
        obtain ⟨l', hl'⟩ := runSteps_finish_done hout
        exact .inl ⟨l', hrun.trans hl'⟩
      · obtain ⟨l₁, -, -, hrun⟩ := runAccessor_wrongEcho ha rfl hlen hecho
        exact .inr (.inl ⟨l₁, hrun⟩)

end

section
/-! Reading a temperature to its end (R75, R142). -/

namespace Sys2Proof.Machine

/-- A temperature read with the right echo ends with the split of its payload on the bundle. -/
theorem runAccessor_readTemperature {p : Pseudo} {lo hi : Byte} {l : Link} {later : List LinkReply}
    (hop : p.replyOp = .r16) (hfinish : p.finish = [.tempDecOut])
    (hin : l.incoming = .bytes [p.ctrl, lo, hi] :: later) :
    ∃ l', l.Answered l' (p.ctrl :: p.payload) [p.ctrl, lo, hi] ∧ l'.cfc.out = temperatureOut (le16 lo hi) ∧
      runAccessor p l = .done l' := by
  have ha : nextAnswer l.incoming = .bytes [p.ctrl, lo, hi] := by rw [hin, nextAnswer_cons]
  have hlen : [p.ctrl, lo, hi].length = replyLength p.replyOp := by rw [hop]; rfl
  obtain ⟨l₁, hl₁, hout, hrun⟩ := runAccessor_echo ha (List.take_of_length_le hlen.le) hlen rfl
  have hv : l₁.cfc.out.v16 = some (le16 lo hi) := by rw [hout, hop]; rfl
  rw [hfinish, runSteps_tempDecOut hv] at hrun
  exact ⟨_, hl₁.afterOp _, rfl, hrun⟩

end Sys2Proof.Machine
end

section
open Sys2Proof Sys2Proof.Machine

/-- Settles O46: the payload is split as TEMP.DEC splits it, exactly. -/
theorem temperatureReadsEndToEnd : Obligations.TemperatureReadsEndToEnd := by
  intro p cmd lo hi l later hp hin
  have hparts : p.ctrl = cmd ∧ p.payload = [] ∧ p.replyOp = .r16 ∧ p.finish = [.tempDecOut] := by
    simp only [List.mem_cons, List.not_mem_nil, or_false, Prod.mk.injEq] at hp
    obtain ⟨rfl, rfl⟩ | ⟨rfl, rfl⟩ | ⟨rfl, rfl⟩ | ⟨rfl, rfl⟩ := hp <;> exact ⟨rfl, rfl, rfl, rfl⟩
  obtain ⟨rfl, hpayload, hop, hfinish⟩ := hparts
  obtain ⟨l', hl', hout, hrun⟩ := runAccessor_readTemperature hop hfinish hin
  obtain ⟨hw, hd, v, hv, hval⟩ := (temperatureOut_consistent (le16 lo hi)).temperatureExact _ _ _ rfl rfl rfl
  cases hv
  refine ⟨l', _, _, _, hrun, hpayload ▸ hl'.sent, hl'.incoming.trans (congrArg List.tail hin), hl'.todo, hout,
    negFlag_eq_one_iff _, hw, hd, hval⟩

/-- Settles O47: the one-byte answer is the acknowledge exactly when it is the control byte. -/
theorem temperatureWritesEndToEnd : Obligations.TemperatureWritesEndToEnd := by
  intro v p cmd b l later hp hin
  have hparts : p.ctrl = cmd ∧ p.payload = [lowByte v, highByte v] ∧ p.replyOp = .ack ∧ p.finish = [] := by
    simp only [List.mem_cons, List.not_mem_nil, or_false, Prod.mk.injEq] at hp
    obtain ⟨rfl, rfl⟩ | ⟨rfl, rfl⟩ | ⟨rfl, rfl⟩ := hp <;> exact ⟨rfl, rfl, rfl, rfl⟩
  obtain ⟨rfl, hpayload, hop, hfinish⟩ := hparts
  have ha : nextAnswer l.incoming = .bytes [b] := by rw [hin, nextAnswer_cons]
  have hlen : [b].length = replyLength p.replyOp := by rw [hop]; rfl
  have hincoming {l' : Link} (h : l'.incoming = l.incoming.tail) : l'.incoming = later := by rw [h, hin]; rfl
  by_cases hb : b = p.ctrl
  · obtain ⟨l', hl', -, hrun⟩ := runAccessor_echo ha (List.take_of_length_le hlen.le) hlen hb
    rw [hfinish] at hrun
    exact ⟨l', hpayload ▸ hl'.sent, hincoming hl'.incoming, by rw [if_pos hb]; exact hrun⟩
  · obtain ⟨l', hl', -, hrun⟩ := runAccessor_wrongEcho ha (List.take_of_length_le hlen.le) hlen hb
    exact ⟨l', hpayload ▸ hl'.sent, hincoming hl'.incoming, by rw [if_neg hb]; exact hrun⟩

/-- Settles O48: the payload byte is unpacked as FAULT.UNPACK unpacks it, and its fields give it back. -/
theorem faultReadEndToEnd : Obligations.FaultReadEndToEnd := by
  intro m l later hin
  have ha : nextAnswer l.incoming = .bytes [0x48#8, m] := by rw [hin, nextAnswer_cons]
  obtain ⟨l₁, hl₁, hout, hrun⟩ := runAccessor_echo (p := .rdFaults) ha rfl rfl rfl
  have hv : l₁.cfc.out.v8 = some m := by rw [hout]; rfl
  exact ⟨_, hrun.trans (runSteps_faultUnpackOut hv), hl₁.sent, hl₁.incoming.trans (congrArg List.tail hin), rfl, rfl,
    _, _, rfl, rfl, rebuildMask_fields m⟩

/-- Settles O49: by induction on the sequence, and by the check of each accessor's decode operation. -/
theorem wrongEchoEndsTheSequence : Obligations.WrongEchoEndsTheSequence := by
  refine ⟨fun done rest l l' st => runSteps_append_of_failed, fun v p cmd b n payload l later hp hb hn hin => ?_⟩
  have hparts : p.ctrl = cmd ∧ replyLength p.replyOp = n := by
    simp only [List.mem_cons, List.not_mem_nil, or_false, Prod.mk.injEq] at hp
    obtain ⟨rfl, rfl, rfl⟩ | ⟨rfl, rfl, rfl⟩ | ⟨rfl, rfl, rfl⟩ | ⟨rfl, rfl, rfl⟩ | ⟨rfl, rfl, rfl⟩ | ⟨rfl, rfl, rfl⟩ |
      ⟨rfl, rfl, rfl⟩ | ⟨rfl, rfl, rfl⟩ | ⟨rfl, rfl, rfl⟩ := hp <;> exact ⟨rfl, rfl⟩
  obtain ⟨rfl, rfl⟩ := hparts
  have ha : nextAnswer l.incoming = .bytes (b :: payload) := by rw [hin, nextAnswer_cons]
  obtain ⟨l', -, hout, hrun⟩ := runAccessor_wrongEcho ha (List.take_of_length_le hn.le) hn hb
  exact ⟨l', hrun, hout⟩

end

section
/-! The numbers of a control byte and of the payload bytes (R41, R61), and when DEC.R16 ends OK (R120, R122). -/

namespace Sys2Proof.Machine

theorem toNat_controlByte (hi : Hi) (dir : BitVec 1) (code : Code) :
    (controlByte hi dir code).toNat = 64 * hi.toNat + 32 * dir.toNat + code.toNat := by
  unfold controlByte
  rw [toNat_append_eq, toNat_append_eq]
  omega

theorem toNat_lowByte (v : Half) : (lowByte v).toNat = v.toNat % 256 :=
  BitVec.extractLsb'_toNat 0 8 v

theorem toNat_highByte (v : Half) : (highByte v).toNat = v.toNat / 256 := by
  have hlt : v.toNat / 256 < 256 := Nat.div_lt_of_lt_mul v.isLt
  rw [highByte, BitVec.extractLsb'_toNat, Nat.shiftRight_eq_div_pow]
  exact Nat.mod_eq_of_lt hlt

theorem resultOf_decR16_st (cmd : Byte) (r : List Byte) :
    (resultOf (.decR16 cmd) r).st = some (check 3 cmd r) := by
  by_cases h : check 3 cmd r = .ok
  · exact (congrArg Out.st (if_pos h)).trans (congrArg some h.symm)
  · exact congrArg Out.st (if_neg h)

/-- A reply passes the check of DEC.R16 when it is the echo and two payload bytes (R120). -/
theorem check_three_ok_iff {cmd : Byte} {r : List Byte} : check 3 cmd r = .ok ↔ ∃ x y, r = [cmd, x, y] := by
  rw [check_ok]
  constructor
  · rintro ⟨hlen, hecho⟩
    obtain ⟨b, x, y, rfl⟩ := List.length_eq_three.1 hlen
    exact ⟨x, y, congrArg (· :: [x, y]) hecho⟩
  · rintro ⟨x, y, rfl⟩
    exact ⟨rfl, rfl⟩

end Sys2Proof.Machine
end

section
open Sys2Proof Sys2Proof.Machine

/-- Settles O12: the frame's byte by its number, and a word by the mask of its row and by the fields an operation's word
has at 0. -/
theorem encRdBuildsReadFrame : Obligations.EncRdBuildsReadFrame := by
  refine ⟨fun code hi s => ⟨controlByte hi 0#1 code, toNat_controlByte hi 0#1 code, exec_eq _ s⟩,
    fun w hop => ⟨fun hres himm => ?_, fun hno => ?_⟩⟩
  · have hrow := and_encRd_mask.2 ⟨hop, hres, imm16Field_eq_zero_iff.1 himm⟩
    exact runsAs_of_decodeWord (decodeWord_encRd_iff.2 hrow)
  · refine endsIllegal_of_no_operation fun i hi => hno ?_
    obtain ⟨hres, -, himm, -⟩ := fields_of_encode hi
    exact ⟨hres, himm hop⟩

/-- Settles O13: as O12, with the two payload bytes and no demand on the immediate. -/
theorem encWr16BuildsWriteFrame : Obligations.EncWr16BuildsWriteFrame := by
  refine ⟨fun code imm16 hi s => ?_, fun w hop => ⟨fun hres => ?_, fun hno => ?_⟩⟩
  · exact ⟨controlByte hi 1#1 code, lowByte imm16, highByte imm16, toNat_controlByte hi 1#1 code, toNat_lowByte imm16,
      toNat_highByte imm16, exec_eq _ s⟩
  · exact runsAs_of_decodeWord (decodeWord_encWr16_iff.2 (and_encWr16_mask.2 ⟨hop, hres⟩))
  · refine endsIllegal_of_no_operation fun i hi => hno ?_
    obtain ⟨hres, -⟩ := fields_of_encode hi
    exact hres

/-- Settles O24: the frame echoes its own control byte, and its payload bytes put together are the value. -/
theorem writeFrameRoundTrips : Obligations.WriteFrameRoundTrips := by
  intro c h v s t hexec
  obtain ⟨-, hctrl⟩ := encWr16_frame hexec
  obtain ⟨hlow, hhigh⟩ := encWr16_payload hexec
  refine ⟨_, _, _, hctrl, hlow, hhigh, ?_⟩
  rw [exec_eq, resultOf_decR16_of_echo, le16_bytes]
  rfl

/-- Settles O32: the frame of ENC.RD, the check of DEC.R16, and both run around an exchange; 'A' is 0x41. -/
theorem identityQueryIsSetPointRead : Obligations.IdentityQueryIsSetPointRead := by
  refine ⟨fun s => exec_eq _ s, fun s => ⟨_, exec_eq _ s, ?_⟩, fun x y l later hin => ?_⟩
  · rw [drive_out, resultOf_decR16_st, Option.some.injEq]
    exact check_three_ok_iff
  · have ha : nextAnswer l.incoming = .bytes [0x41#8, x, y] := by
      rw [hin]
      rfl
    obtain ⟨l', hl', hout, hrun⟩ := runAccessor_echo (p := .idQuery) ha rfl rfl rfl
    exact ⟨l', hrun, hl'.sent, hl'.incoming.trans (congrArg List.tail hin), hout⟩

end

section
/-! `W[15:4]` field by field (R62), and the number of two payload bytes (R41). -/

namespace Sys2Proof.Machine

/-- `W[15:4]` is the reserved bits above `hi` above `code` (R62). -/
theorem extractLsb'_low12 (w : Word) : w.extractLsb' 4 12 = reservedField w ++ (hiField w ++ codeField w) := by
  rw [← extractLsb'_code_hi]
  exact (BitVec.extractLsb'_append_extractLsb'_eq_extractLsb' (start₁ := 4) (len₁ := 7) (len₂ := 5) (x := w) rfl).symm

theorem append_eq_zero_iff {m n : Nat} {x : BitVec m} {y : BitVec n} : x ++ y = 0#(m + n) ↔ x = 0#m ∧ y = 0#n := by
  constructor
  · intro h
    have hx := BitVec.extractLsb'_append_eq_left (a := x) (b := y)
    have hy := BitVec.extractLsb'_append_eq_right (a := x) (b := y)
    rw [h, BitVec.extractLsb'_zero] at hx hy
    exact ⟨hx.symm, hy.symm⟩
  · rintro ⟨rfl, rfl⟩
    exact BitVec.zero_append_zero

/-- `W[15:4] = 0` field by field (R62). -/
theorem low12_eq_zero_iff {w : Word} :
    w.extractLsb' 4 12 = 0#12 ↔ reservedField w = 0#5 ∧ hiField w = 0#2 ∧ codeField w = 0#5 := by
  rw [extractLsb'_low12]
  exact append_eq_zero_iff.trans (and_congr_right fun _ => append_eq_zero_iff)

theorem toNat_le16 (lo hi : Byte) : (le16 lo hi).toNat = lo.toNat + 256 * hi.toNat := by
  rw [le16, toNat_append_eq]
  omega

end Sys2Proof.Machine
end

section
/-! How the decode operations end: a request word by its must-be-zero bits, a reply by its length and then its echo (R62,
R120, R201). -/

namespace Sys2Proof.Machine

/-- The operation number of each decode operation (R63). -/
def ReplyOp.opNumber : ReplyOp → BitVec 4
  | .r16 => 0x3#4
  | .r8 => 0x4#4
  | .ack => 0x5#4

theorem ReplyOp.encode_instr (d : ReplyOp) (cmd : Byte) :
    encode (d.instr cmd) = .word (packWord d.opNumber 0#5 0#2 (immOfByte cmd)) := by
  cases d <;> rfl

/-- A word with a decode operation's number runs as that operation of `W[23:16]` when its must-be-zero bits are 0, and
ends ILLEGAL_OP otherwise (R62, R65). -/
theorem ReplyOp.word_ends {d : ReplyOp} {w : Word} (hop : opField w = d.opNumber) :
    (w.extractLsb' 4 12 = 0#12 → topField w = 0#8 → RunsAs w (d.instr (cmdField w))) ∧
    (¬(w.extractLsb' 4 12 = 0#12 ∧ topField w = 0#8) → EndsIllegal w) := by
  refine ⟨fun hlow htop => runsAs_of_decodeWord (decodeWord_eq_ok_iff.2 ?_),
    fun hno => endsIllegal_of_no_operation fun i hi => hno ?_⟩
  · obtain ⟨hres, hhi, hcode⟩ := low12_eq_zero_iff.1 hlow
    rw [d.encode_instr, encode_byteOperand_iff, and_byteOperand_mask]
    exact ⟨hop, hcode, hhi, hres, htop⟩
  · obtain ⟨hres, hlow, -, htop, -⟩ := fields_of_encode hi
    rw [hop] at hlow htop
    have hbyte : d.opNumber ≠ 0x1#4 ∧ d.opNumber ≠ 0x2#4 ∧ d.opNumber ∈ [0x3#4, 0x4#4, 0x5#4, 0x8#4] := by
      cases d <;> decide
    obtain ⟨hne1, hne2, hmem⟩ := hbyte
    obtain ⟨hcode, hhi⟩ := hlow hne1 hne2
    exact ⟨low12_eq_zero_iff.2 ⟨hres, hhi, hcode⟩, htop hmem⟩

/-- The length is checked before the echo, which is then of no account (R120, R201). -/
theorem ReplyOp.resultOf_wrongLength {d : ReplyOp} {cmd : Byte} {r : List Byte} (hlen : r.length ≠ replyLength d) :
    resultOf (d.instr cmd) r = statusOnly .lengthMismatch := by
  have h : check (replyLength d) cmd r = .lengthMismatch := check_lengthMismatch.2 hlen
  have hne : ¬ check (replyLength d) cmd r = .ok := by simp [h]
  cases d with
  | r16 => exact (if_neg hne).trans (congrArg statusOnly h)
  | r8 => exact (if_neg hne).trans (congrArg statusOnly h)
  | ack => exact congrArg statusOnly h

theorem ReplyOp.exec_wrongLength {d : ReplyOp} {cmd : Byte} {s : State} (hlen : s.R.length ≠ replyLength d) :
    exec (d.instr cmd) s = .next (drive (statusOnly .lengthMismatch) s) := by
  rw [exec_eq, resultOf_wrongLength hlen]

theorem ReplyOp.exec_wrongEcho {d : ReplyOp} {cmd b : Byte} {bs : List Byte} {s : State} (hR : s.R = b :: bs)
    (hlen : (b :: bs).length = replyLength d) (hne : b ≠ cmd) :
    exec (d.instr cmd) s = .next (drive (statusOnly .codeMismatch) s) := by
  rw [exec_eq, hR, resultOf_wrongEcho hlen hne]

theorem ReplyOp.exec_echo {d : ReplyOp} {cmd : Byte} {bs : List Byte} {s : State} (hR : s.R = cmd :: bs)
    (hlen : (cmd :: bs).length = replyLength d) :
    exec (d.instr cmd) s = .next (drive (d.valueOut (cmd :: bs)) s) := by
  have h : resultOf (d.instr cmd) (cmd :: bs) = d.valueOut (cmd :: bs) := resultOf_echo hlen rfl
  rw [exec_eq, hR, h]

/-- A reply of the length a decode operation expects has a first byte. -/
theorem ReplyOp.getElem?_zero_eq_some_iff {d : ReplyOp} {b : Byte} {r : List Byte} (hlen : r.length = replyLength d) :
    r[0]? = some b ↔ replyByte r 0 = b := by
  cases r with
  | nil => cases d <;> cases hlen
  | cons c cs => simp [replyByte]

/-- The checks of a reply in their order (R120, R201). -/
theorem ReplyOp.resultOf_checks (d : ReplyOp) (cmd : Byte) (r : List Byte) :
    if r.length ≠ replyLength d then resultOf (d.instr cmd) r = statusOnly .lengthMismatch
    else if r[0]? ≠ some cmd then resultOf (d.instr cmd) r = statusOnly .codeMismatch
    else (resultOf (d.instr cmd) r).st = some .ok := by
  split_ifs with hlen hecho
  · exact resultOf_wrongLength hlen
  · exact resultOf_wrongEcho (not_not.1 hlen) (mt (getElem?_zero_eq_some_iff (not_not.1 hlen)).2 hecho)
  · have hfirst := (getElem?_zero_eq_some_iff (not_not.1 hlen)).1 (not_not.1 hecho)
    rw [resultOf_echo (not_not.1 hlen) hfirst, valueOut_st]

/-- How a step ends that presents a word with a decode operation's number: a must-be-zero bit decides before the reply
is looked at (R120, R201). -/
theorem ReplyOp.step_ends {d : ReplyOp} {s : State} {w : Word} {r : List Byte} {rest : List Presentation}
    (htodo : s.todo = ⟨.word w, r⟩ :: rest) (hop : opField w = d.opNumber) :
    ∃ t, step s = .next t ∧
      if w.extractLsb' 4 12 ≠ 0#12 ∨ topField w ≠ 0#8 then t.out = statusOnly .illegalOp
      else if r.length ≠ replyLength d then t.out = statusOnly .lengthMismatch
      else if r[0]? ≠ some (cmdField w) then t.out = statusOnly .codeMismatch
      else t.out.st = some .ok := by
  obtain ⟨hruns, hillegal⟩ := word_ends hop
  by_cases hmbz : w.extractLsb' 4 12 ≠ 0#12 ∨ topField w ≠ 0#8
  · simp only [if_pos hmbz]
    exact ⟨_, hillegal (not_and_or.2 hmbz) s r rest htodo, rfl⟩
  · simp only [if_neg hmbz]
    obtain ⟨hlow, htop⟩ := not_or.1 hmbz
    exact ⟨_, (hruns (not_not.1 hlow) (not_not.1 htop) s r rest htodo).trans (exec_eq _ _), d.resultOf_checks _ r⟩

end Sys2Proof.Machine
end

section
open Sys2Proof Sys2Proof.Machine

/-- Settles O14: the three replies DEC.R16 tells apart, and a word by its must-be-zero bits. -/
theorem decR16ReadsSixteenBits : Obligations.DecR16ReadsSixteenBits :=
  ⟨fun _ lo hi _ hR => ⟨le16 lo hi, toNat_le16 lo hi, (ReplyOp.exec_echo (d := .r16) hR rfl :)⟩,
    fun _ _ hlen => ReplyOp.exec_wrongLength (d := .r16) hlen,
    fun _ _ _ _ _ hR hne => ReplyOp.exec_wrongEcho (d := .r16) hR rfl hne,
    fun _ hop => ReplyOp.word_ends (d := .r16) hop⟩

/-- Settles O15: as O14, with one payload byte. -/
theorem decR8ReadsEightBits : Obligations.DecR8ReadsEightBits :=
  ⟨fun _ _ _ hR => (ReplyOp.exec_echo (d := .r8) hR rfl :),
    fun _ _ hlen => ReplyOp.exec_wrongLength (d := .r8) hlen,
    fun _ _ _ _ hR hne => ReplyOp.exec_wrongEcho (d := .r8) hR rfl hne,
    fun _ hop => ReplyOp.word_ends (d := .r8) hop⟩

/-- Settles O16: as O14, with the echo alone. -/
theorem decAckAcceptsTheEcho : Obligations.DecAckAcceptsTheEcho :=
  ⟨fun _ _ hR => (ReplyOp.exec_echo (d := .ack) hR rfl :),
    fun _ _ hlen => ReplyOp.exec_wrongLength (d := .ack) hlen,
    fun _ _ _ hR hne => ReplyOp.exec_wrongEcho (d := .ack) hR rfl hne,
    fun _ hop => ReplyOp.word_ends (d := .ack) hop⟩

/-- Settles O22: the checks in order, for the operation the word names. -/
theorem replyChecksRunInOrder : Obligations.ReplyChecksRunInOrder := by
  intro s w r rest n htodo hw
  obtain ⟨hop, rfl⟩ | ⟨hop, rfl⟩ | ⟨hop, rfl⟩ := hw
  · exact ReplyOp.step_ends (d := .r16) htodo hop
  · exact ReplyOp.step_ends (d := .r8) htodo hop
  · exact ReplyOp.step_ends (d := .ack) htodo hop

/-- Settles O23: each way the checks of O22 can go leaves one status. -/
theorem decodeOperationsAlwaysEnd : Obligations.DecodeOperationsAlwaysEnd := by
  intro s w r rest htodo hop
  obtain ⟨d, hd⟩ : ∃ d : ReplyOp, opField w = d.opNumber := by
    simp only [List.mem_cons, List.not_mem_nil, or_false] at hop
    obtain hop | hop | hop := hop
    exacts [⟨.r16, hop⟩, ⟨.r8, hop⟩, ⟨.ack, hop⟩]
  obtain ⟨t, hstep, hout⟩ := d.step_ends htodo hd
  refine ⟨t, hstep, ?_⟩
  split_ifs at hout
  · exact .inr (.inr (.inr hout))
  · exact .inr (.inl hout)
  · exact .inr (.inr (.inl hout))
  · exact .inl hout

end

section
/-! The temperature operations: a request word by its must-be-zero bits (R62), and TEMP.DEC's fields as the number they
stand for (R140 to R142). -/

namespace Sys2Proof.Machine

/-- An operation's word has `W[15:4]` at 0, except those of the two encode operations (R62). -/
theorem low12_eq_zero_of_encode {w : Word} {i : Instr} (h : encode i = .word w) (hne1 : opField w ≠ 0x1#4)
    (hne2 : opField w ≠ 0x2#4) : w.extractLsb' 4 12 = 0#12 := by
  obtain ⟨hres, hlow, -⟩ := fields_of_encode h
  obtain ⟨hcode, hhi⟩ := hlow hne1 hne2
  exact low12_eq_zero_iff.2 ⟨hres, hhi, hcode⟩

/-- A word with the number of an operation on `W[31:16]` runs as that operation when `W[15:4]` is 0, and ends ILLEGAL_OP
otherwise (R62, R65). -/
theorem halfOperand_word_ends {w : Word} {op : BitVec 4} {i : Instr}
    (hi : encode i = .word (packWord op 0#5 0#2 (imm16Field w))) (hop : opField w = op) (hne1 : op ≠ 0x1#4)
    (hne2 : op ≠ 0x2#4) :
    (w.extractLsb' 4 12 = 0#12 → RunsAs w i) ∧ (w.extractLsb' 4 12 ≠ 0#12 → EndsIllegal w) := by
  subst hop
  refine ⟨fun hlow => runsAs_of_decodeWord (decodeWord_eq_ok_iff.2 ?_),
    fun hno => endsIllegal_of_no_operation fun j hj => hno (low12_eq_zero_of_encode hj hne1 hne2)⟩
  obtain ⟨hres, hhi, hcode⟩ := low12_eq_zero_iff.1 hlow
  rw [hi, encode_halfOperand_iff, and_halfOperand_mask]
  exact ⟨rfl, hcode, hhi, hres⟩

theorem toNat_negFlag (t : Int) : (negFlag t).toNat = if t < 0 then 1 else 0 :=
  apply_ite BitVec.toNat (t < 0) 1#1 0#1

/-- The sign, whole degrees and tenths of a bundle give the deci-degree count `T` (R144). -/
def SplitsInto (o : Out) (T : Int) : Prop :=
  ∃ n w d, o.neg = some n ∧ o.whole = some w ∧ o.tenths = some d ∧
    T = (if n = 1#1 then -1 else 1) * (10 * (w.toNat : Int) + d.toNat)

theorem temperatureOut_splitsInto (b : Half) : SplitsInto (temperatureOut b) b.toInt := by
  obtain ⟨-, -, v, hv, hval⟩ := (temperatureOut_consistent b).temperatureExact _ _ _ rfl rfl rfl
  cases hv
  exact ⟨_, _, _, rfl, rfl, rfl, hval⟩

/-- Ten parts to the degree: `T / 10` is whole degrees and tenths of a degree (R140). -/
theorem tenth_of_split {T : Int} {w d : Nat} {neg : Prop} [Decidable neg]
    (h : T = (if neg then -1 else 1) * (10 * (w : Int) + d)) :
    (T : Rat) / 10 = (if neg then -1 else 1) * ((w : Rat) + (d : Rat) / 10) := by
  subst h
  push_cast
  ring

/-- The range of a temperature is that of a 16-bit count (R10, R140). -/
theorem celsius_range (b : Half) : -32768 / 10 ≤ celsius b ∧ celsius b ≤ 32767 / 10 := by
  have hlo : (-32768 : Rat) ≤ sint16 b := by exact_mod_cast BitVec.le_toInt b
  have hhi : (sint16 b : Rat) ≤ 32767 := by exact_mod_cast Int.le_of_lt_add_one (BitVec.toInt_lt (x := b))
  exact ⟨div_le_div_of_nonneg_right hlo (by norm_num), div_le_div_of_nonneg_right hhi (by norm_num)⟩

end Sys2Proof.Machine
end

section
open Sys2Proof Sys2Proof.Machine

/-- Settles O17: the fields are wide enough for the magnitude's digits, and a word ends by its must-be-zero bits. -/
theorem tempDecSplitsTheReading : Obligations.TempDecSplitsTheReading := by
  refine ⟨fun imm16 s => ?_, fun w hop => halfOperand_word_ends rfl hop (by decide) (by decide)⟩
  obtain ⟨hwhole, htenths, hrange⟩ := temperature_magnitude imm16
  have hdigit : (sint16 imm16).natAbs % 10 ≤ 9 := Nat.le_of_lt_succ (Nat.mod_lt _ (by decide))
  exact ⟨_, _, _, toNat_negFlag _, hwhole, htenths, hwhole.trans_le hrange, htenths.trans_le hdigit, exec_eq _ s⟩

/-- Settles O18: the bundle carries the pattern itself, and a word ends by its must-be-zero bits. -/
theorem tempEncPassesThrough : Obligations.TempEncPassesThrough :=
  ⟨fun _ s => exec_eq _ s, fun _ hop => halfOperand_word_ends rfl hop (by decide) (by decide)⟩

/-- Settles O26: what TEMP.DEC drives splits the count, and both operations pass the pattern on. -/
theorem temperatureSplitIsExact : Obligations.TemperatureSplitIsExact := by
  refine fun b s => ⟨_, _, exec_eq _ s, temperatureOut_splitsInto b, exec_eq _ s, rfl, fun v hv => ?_⟩
  cases hv
  exact ⟨_, exec_eq _ _, rfl⟩

/-- Settles O27: the split of the count, divided by ten. -/
theorem splitFieldsCarryTheTemperature : Obligations.SplitFieldsCarryTheTemperature := by
  intro b s t h
  rw [exec_eq] at h
  cases h
  obtain ⟨n, w, d, hn, hw, hd, hval⟩ := temperatureOut_splitsInto b
  exact ⟨n, w, d, hn, hw, hd, tenth_of_split hval, rfl, celsius_range b⟩

end

section
/-! FAULT.UNPACK: a request word by its must-be-zero bits (R62), the fields bit by bit (R161, R162), and the fault set as
the rows of R160's table at the set positions (R164). -/

namespace Sys2Proof.Machine

/-- A word with FAULT.UNPACK's number runs as FAULT.UNPACK of `W[23:16]` when its must-be-zero bits are 0, and ends
ILLEGAL_OP otherwise (R62, R65). -/
theorem faultUnpack_word_ends {w : Word} (hop : opField w = 0x8#4) :
    (w.extractLsb' 4 12 = 0#12 → topField w = 0#8 → RunsAs w (.faultUnpack (cmdField w))) ∧
    (¬(w.extractLsb' 4 12 = 0#12 ∧ topField w = 0#8) → EndsIllegal w) := by
  refine ⟨fun hlow htop => runsAs_of_decodeWord ?_, fun hno => endsIllegal_of_no_operation fun i hi => hno ⟨?_, ?_⟩⟩
  · obtain ⟨hres, hhi, hcode⟩ := low12_eq_zero_iff.1 hlow
    exact decodeWord_faultUnpack_iff.2 (and_byteOperand_mask.2 ⟨hop, hcode, hhi, hres, htop⟩)
  · exact low12_eq_zero_of_encode hi (by simp [hop]) (by simp [hop])
  · obtain ⟨-, -, -, htop, -⟩ := fields_of_encode hi
    exact htop (by simp [hop])

theorem faultUnpack_out {m : Byte} {s t : State} (h : exec (.faultUnpack m) s = .next t) : t.out = faultOut m := by
  rw [exec_eq] at h
  cases h
  rfl

/-- The flags of `named` are the mask's bits at the five named positions (R161). -/
theorem namedField_bits (m : Byte) :
    (namedField m).getLsbD 0 = m.getLsbD 0 ∧ (namedField m).getLsbD 1 = m.getLsbD 2 ∧
      (namedField m).getLsbD 2 = m.getLsbD 4 ∧ (namedField m).getLsbD 3 = m.getLsbD 5 ∧
      (namedField m).getLsbD 4 = m.getLsbD 7 := by
  rw [namedField]
  repeat rw [BitVec.getLsbD_append]
  simp

/-- `unnamed` keeps the mask's bits 1, 3 and 6 where they are (R161). -/
theorem getLsbD_unnamedField (m : Byte) (p : Nat) :
    (unnamedField m).getLsbD p = (m.getLsbD p && (p == 1 || p == 3 || p == 6)) := by
  rw [unnamedField, BitVec.getLsbD_and]
  by_cases hp : p < 8
  · have hconst : ∀ p < 8, (0b01001010#8).getLsbD p = (p == 1 || p == 3 || p == 6) := by decide
    rw [hconst p hp]
  · simp [BitVec.getLsbD_of_ge m p (by omega)]

/-- The positions that R160's table leaves without a name. -/
theorem faultKind_eq_unnamed_iff :
    ∀ p < 8, faultKind p = .unnamed ↔ (p == 1 || p == 3 || p == 6) = true := by decide

/-- The fault set is the part of R160's table that stands at set positions (R164). -/
theorem faultSet_eq_filter (m : Byte) :
    faultSet m = ([0, 1, 2, 3, 4, 5, 6, 7].map fun p => (p, faultKind p)).filter fun e => m.getLsbD e.1 := by
  rw [List.filter_map]
  rfl

/-- The positions of the fault set are the mask's set positions, in ascending order (R164). -/
theorem faultSet_positions (m : Byte) : (faultSet m).map Prod.fst = (List.range 8).filter fun p => m.getLsbD p := by
  rw [faultSet, List.map_map]
  exact List.map_id _

/-- A mask without a set position is the zero mask (R163). -/
theorem faultSet_eq_nil_iff (m : Byte) : faultSet m = [] ↔ m = 0#8 := by
  rw [← List.map_eq_nil_iff (f := Prod.fst), faultSet_positions, List.filter_eq_nil_iff]
  simp only [List.mem_range, Bool.not_eq_true]
  exact ⟨fun h => BitVec.eq_of_getLsbD_eq fun p hp => (h p hp).trans BitVec.getLsbD_zero.symm,
    fun h p _ => h ▸ BitVec.getLsbD_zero⟩

end Sys2Proof.Machine
end

section
open Sys2Proof Sys2Proof.Machine

/-- Settles O19: the bundle field by field, `count` as the number of set positions, and a word by its must-be-zero
bits. -/
theorem faultUnpackExpandsTheMask : Obligations.FaultUnpackExpandsTheMask := by
  refine ⟨fun m s => ?_, fun w hop => faultUnpack_word_ends hop⟩
  obtain ⟨h0, h1, h2, h3, h4⟩ := namedField_bits m
  have hcount : (countField m).toNat = ((List.range 8).filter fun p => m.getLsbD p).length := by
    rw [countField_toNat, ← faultSet_positions, List.length_map]
  exact ⟨namedField m, unnamedField m, nofaultFlag m, countField m, h0, h1, h2, h3, h4, getLsbD_unnamedField m, rfl,
    hcount, exec_eq _ s⟩

/-- Settles O28: the fault set is a part of R160's table, and its positions a part of `0, ..., 7`. -/
theorem faultSetListsEverySetBit : Obligations.FaultSetListsEverySetBit := by
  intro m s t h
  rw [faultUnpack_out h]
  refine ⟨fun p k => ?_, ?_, countField m, rfl, countField_toNat m⟩
  · rw [faultSet_eq_filter, List.mem_filter]
    exact and_comm
  · rw [faultSet_positions]
    exact List.pairwise_lt_range.filter _

/-- Settles O29: `named` holds the named positions, `unnamed` the others, and the two give the mask back. -/
theorem faultFieldsLoseNothing : Obligations.FaultFieldsLoseNothing := by
  intro m s t h
  rw [faultUnpack_out h]
  obtain ⟨h0, h1, h2, h3, h4⟩ := namedField_bits m
  refine ⟨namedField m, unnamedField m, rfl, rfl, h0, h1, h2, h3, h4, fun p hp => ?_, rebuildMask_fields m⟩
  rw [getLsbD_unnamedField, faultKind_eq_unnamed_iff p hp, Bool.and_eq_true]

/-- Settles O30: FAULT.UNPACK always drives OK, and both `nofault` and the fault set tell the zero mask from the others. -/
theorem emptyMaskMeansNoFault : Obligations.EmptyMaskMeansNoFault :=
  fun m s => ⟨_, exec_eq _ s, rfl, Option.some_inj.trans (nofaultFlag_eq_one_iff m), faultSet_eq_nil_iff m⟩

end

section
/-! The status an operation ends with (R200), and which of the reply checks raises it (R120, R201). -/

namespace Sys2Proof.Machine

/-- A property of some decode operation is one of DEC.R16, DEC.R8 or DEC.ACK. -/
theorem ReplyOp.exists_iff {P : ReplyOp → Prop} : (∃ d, P d) ↔ P .r16 ∨ P .r8 ∨ P .ack := by
  refine ⟨fun ⟨d, hd⟩ => ?_, fun h => ?_⟩
  · cases d with
    | r16 => exact .inl hd
    | r8 => exact .inr (.inl hd)
    | ack => exact .inr (.inr hd)
  · obtain h | h | h := h
    exacts [⟨.r16, h⟩, ⟨.r8, h⟩, ⟨.ack, h⟩]

/-- The bundle that a check guards ends with the check's own status (R120). -/
theorem checked_st {c : Status} {o : Out} (ho : o.st = some .ok) :
    (if c = .ok then o else statusOnly c).st = some c := by
  by_cases h : c = .ok
  · rw [if_pos h, ho, h]
  · rw [if_neg h, statusOnly_st]

/-- A decode operation ends with the status of its reply check (R120). -/
theorem ReplyOp.resultOf_st (d : ReplyOp) (cmd : Byte) (r : List Byte) :
    (resultOf (d.instr cmd) r).st = some (check (replyLength d) cmd r) := by
  cases d with
  | r16 => exact resultOf_decR16_st cmd r
  | r8 => exact checked_st rfl
  | ack => rfl

/-- An operation is a decode operation, or it ends OK whatever the reply. -/
theorem decode_or_ends_ok (i : Instr) :
    (∃ (d : ReplyOp) (cmd : Byte), i = d.instr cmd) ∨ ∀ r, (resultOf i r).st = some .ok := by
  cases i with
  | decR16 cmd => exact .inl ⟨.r16, cmd, rfl⟩
  | decR8 cmd => exact .inl ⟨.r8, cmd, rfl⟩
  | decAck cmd => exact .inl ⟨.ack, cmd, rfl⟩
  | _ => exact .inr fun _ => rfl

/-- Only the reply check of a decode operation raises an error in an operation (R200). -/
theorem resultOf_st_eq_error_iff {i : Instr} {r : List Byte} {st : Status} (hne : st ≠ .ok) :
    (resultOf i r).st = some st ↔
      ∃ (cmd : Byte) (d : ReplyOp), i = d.instr cmd ∧ check (replyLength d) cmd r = st := by
  constructor
  · intro h
    obtain ⟨d, cmd, rfl⟩ | hok := decode_or_ends_ok i
    · exact ⟨cmd, d, rfl, Option.some.inj ((d.resultOf_st cmd r).symm.trans h)⟩
    · exact absurd (Option.some.inj ((hok r).symm.trans h)).symm hne
  · rintro ⟨cmd, d, rfl, h⟩
    rw [d.resultOf_st, h]

theorem resultOf_st_ne_illegalOp (i : Instr) (r : List Byte) : (resultOf i r).st ≠ some .illegalOp := by
  intro h
  obtain ⟨cmd, d, -, hcheck⟩ := (resultOf_st_eq_error_iff (by decide)).1 h
  exact check_ne_illegalOp _ cmd r hcheck

theorem resultOf_st_eq_lengthMismatch_iff {i : Instr} {r : List Byte} :
    (resultOf i r).st = some .lengthMismatch ↔
      ∃ (cmd : Byte) (d : ReplyOp), i = d.instr cmd ∧ r.length ≠ replyLength d := by
  simp only [resultOf_st_eq_error_iff (show Status.lengthMismatch ≠ .ok by decide), check_lengthMismatch]

theorem resultOf_st_eq_codeMismatch_iff {i : Instr} {r : List Byte} :
    (resultOf i r).st = some .codeMismatch ↔
      ∃ cmd : Byte, r[0]? ≠ some cmd ∧ ∃ d : ReplyOp, i = d.instr cmd ∧ r.length = replyLength d := by
  rw [resultOf_st_eq_error_iff (by decide)]
  refine exists_congr fun cmd => ⟨fun ⟨d, hi, hcheck⟩ => ?_, fun ⟨hecho, d, hi, hlen⟩ => ?_⟩
  · obtain ⟨hlen, hecho⟩ := check_codeMismatch.1 hcheck
    exact ⟨mt (ReplyOp.getElem?_zero_eq_some_iff hlen).1 hecho, d, hi, hlen⟩
  · exact ⟨d, hi, check_codeMismatch.2 ⟨hlen, mt (ReplyOp.getElem?_zero_eq_some_iff hlen).2 hecho⟩⟩

end Sys2Proof.Machine
end

section
open Sys2Proof Sys2Proof.Machine

/-- Settles O33: a word that is no operation ends ILLEGAL_OP, and an operation ends with the error its reply check
raises or with OK. -/
theorem everyOperationEndsWithOneStatus : Obligations.EveryOperationEndsWithOneStatus := by
  refine ⟨rfl, rfl, rfl, rfl, fun s w r rest htodo => ?_⟩
  cases hd : decodeWord w with
  | error reject =>
    have hno (i : Instr) : encode i ≠ .word w := fun hi => by simp [decodeWord_eq_ok_iff.2 hi] at hd
    exact ⟨_, .illegalOp, endsIllegal_of_no_operation hno s r rest htodo, rfl, by simp, by simp, by simp⟩
  | ok i =>
    obtain ⟨st, hst⟩ := resultOf_drives_status i r
    have hiff (st' : Status) : st = st' ↔ (resultOf i r).st = some st' := by rw [hst, Option.some_inj]
    refine ⟨_, st, (runsAs_of_decodeWord hd s r rest htodo).trans (exec_eq _ _), hst, ?_, ?_, ?_⟩
    · rw [hiff, resultOf_st_eq_lengthMismatch_iff]
      simp only [ReplyOp.exists_iff, Except.ok.injEq]
      rfl
    · rw [hiff, resultOf_st_eq_codeMismatch_iff]
      simp only [ReplyOp.exists_iff, Except.ok.injEq]
      rfl
    · exact iff_of_false (fun h => resultOf_st_ne_illegalOp i r ((hiff _).1 h)) fun h => h i rfl

end

section
/-! An accessor that ends in its exchange: what its encode operation left stands there still (R74, R75, R206). -/

namespace Sys2Proof.Machine

/-- `l₁` is `l` after an operation that ended OK with the frame `f`, nothing sent and nothing taken from the link. -/
structure Link.Encoded (l l₁ : Link) (f : List Byte) : Prop extends l.Prepared l₁ f where
  status : l₁.cfc.out.st = some .ok
  frame : frameOf l₁.cfc.out = some f
  reply : l₁.cfc.R = l.cfc.R

theorem Link.encoded_afterOp {i : Instr} {l : Link} {f : List Byte} (hst : (resultOf i l.cfc.R).st = some .ok)
    (hf : frameOf (resultOf i l.cfc.R) = some f) : l.Encoded (l.afterOp i) f where
  lastFrame := by simp [hf]
  sent := rfl
  incoming := rfl
  todo := l.afterOp_todo i
  status := hst
  frame := hf
  reply := l.afterOp_R i

/-- An operation issued before the encode operation takes nothing from the link either. -/
theorem Link.Encoded.of_afterOp {i : Instr} {l l₁ : Link} {f : List Byte} (h : (l.afterOp i).Encoded l₁ f) :
    l.Encoded l₁ f :=
  { h with todo := h.todo.trans (l.afterOp_todo i), reply := h.reply.trans (l.afterOp_R i) }

/-- The two shapes of an expansion up to its exchange: a read encodes its command, a write first makes its value a count
(R75). -/
theorem expand_cases (p : Pseudo) :
    (∃ code rest, expand p = .issue (.encRd code 0b01#2) :: .xchg (replyLength p.replyOp) :: rest ∧
      p.ctrl :: p.payload = [controlByte 0b01#2 0#1 code]) ∨
    (∃ t code rest, expand p = .issue (.tempEnc t) :: .encWr16Out code 0b01#2 :: .xchg (replyLength p.replyOp) :: rest ∧
      p.ctrl :: p.payload = [controlByte 0b01#2 1#1 code, lowByte t, highByte t]) := by
  cases p with
  | wrSetpoint t => exact .inr ⟨t, _, _, rfl, rfl⟩
  | wrLowLimit t => exact .inr ⟨t, _, _, rfl, rfl⟩
  | wrHighLimit t => exact .inr ⟨t, _, _, rfl, rfl⟩
  | _ => exact .inl ⟨_, _, rfl, rfl⟩

/-- Every accessor comes to its exchange with its encode operation's frame on the bundle. -/
theorem runAccessor_encoded (p : Pseudo) (l : Link) :
    ∃ l₁ rest, l.Encoded l₁ (p.ctrl :: p.payload) ∧
      runAccessor p l = runSteps (.xchg (replyLength p.replyOp) :: rest) l₁ := by
  obtain ⟨code, rest, hexpand, hframe⟩ | ⟨t, code, rest, hexpand, hframe⟩ := expand_cases p
  all_goals rw [runAccessor, hexpand, hframe]
  · exact ⟨_, rest, Link.encoded_afterOp rfl rfl, runSteps_of_done _ (hostStep_issue_done rfl)⟩
  · refine ⟨(l.afterOp (.tempEnc t)).afterOp (.encWr16 code t 0b01#2), rest,
      .of_afterOp (Link.encoded_afterOp rfl rfl), ?_⟩
    exact (runSteps_of_done _ (hostStep_issue_done rfl)).trans (runSteps_of_done _ (hostStep_encWr16Out rfl))

/-- An accessor whose exchange fails ends there, before any decode (R75, R206). -/
theorem runAccessor_hostFailed {p : Pseudo} {l : Link} {e : HostError}
    (hx : ∀ l₁, l.Prepared l₁ (p.ctrl :: p.payload) →
      exchange (replyLength p.replyOp) l₁ = .hostFailed e (l₁.afterSending (p.ctrl :: p.payload))) :
    ∃ l', runAccessor p l = .hostFailed e l' ∧ l'.cfc.out.st = some .ok ∧
      frameOf l'.cfc.out = some (p.ctrl :: p.payload) ∧ l'.sent = l.sent ++ [p.ctrl :: p.payload] ∧
      l'.cfc.R = l.cfc.R ∧ l'.incoming = l.incoming.tail := by
  obtain ⟨l₁, rest, hl₁, hrun⟩ := runAccessor_encoded p l
  exact ⟨_, hrun.trans (runSteps_of_hostFailed rest (hx l₁ hl₁.toPrepared)), hl₁.status, hl₁.frame,
    congrArg (· ++ [_]) hl₁.sent, hl₁.reply, congrArg List.tail hl₁.incoming⟩

theorem nextAnswer_of_short {n : Nat} {incoming : List LinkReply} (hn : 0 < n)
    (h : incoming = [] ∨ ∃ bs later, incoming = .bytes bs :: later ∧ bs.length < n) :
    ∃ bs, nextAnswer incoming = .bytes bs ∧ bs.length < n := by
  obtain rfl | ⟨bs, later, rfl, hbs⟩ := h
  · exact ⟨[], rfl, hn⟩
  · exact ⟨bs, rfl, hbs⟩

end Sys2Proof.Machine
end

section
open Sys2Proof Sys2Proof.Machine

/-- Settles O51: the exchange fails with the encode operation's frame on the bundle, and nothing is issued after it. -/
theorem hostErrorsEndTheSequence : Obligations.HostErrorsEndTheSequence := by
  intro v p n frame l hp
  have hparts : replyLength p.replyOp = n ∧ p.ctrl :: p.payload = frame := by
    simp only [List.mem_cons, List.not_mem_nil, or_false, Prod.mk.injEq] at hp
    obtain ⟨rfl, rfl, rfl⟩ | ⟨rfl, rfl, rfl⟩ | ⟨rfl, rfl, rfl⟩ | ⟨rfl, rfl, rfl⟩ | ⟨rfl, rfl, rfl⟩ | ⟨rfl, rfl, rfl⟩ |
      ⟨rfl, rfl, rfl⟩ | ⟨rfl, rfl, rfl⟩ | ⟨rfl, rfl, rfl⟩ := hp <;> exact ⟨rfl, rfl⟩
  obtain ⟨rfl, rfl⟩ := hparts
  refine ⟨fun hshort => ?_, fun ⟨later, hbroken⟩ => ?_⟩
  · obtain ⟨bs, ha, hbs⟩ := nextAnswer_of_short (replyFrameLength_range _).1 hshort
    exact runAccessor_hostFailed fun l₁ hl₁ => exchange_timeout hl₁.lastFrame (hl₁.incoming ▸ ha) hbs
  · have ha : nextAnswer l.incoming = .broken := by rw [hbroken, nextAnswer_cons]
    exact runAccessor_hostFailed fun l₁ hl₁ => exchange_ioError hl₁.lastFrame (hl₁.incoming ▸ ha)

end

section
/-! Runs and stops: a step stops only on a byte list that is no command frame (R67, R126, log entries 1 and 3). -/

namespace Sys2Proof.Machine

/-- Where every byte list is a command frame a step answers, and leaves a list of the same kind. -/
theorem step_keeps_framesWellFormed {s : State} (hs : FramesWellFormed s) :
    ∃ t, step s = .next t ∧ FramesWellFormed t := by
  cases htodo : s.todo with
  | nil => exact ⟨s, step_idle htodo, hs⟩
  | cons p rest =>
    obtain ⟨o, -, hstep⟩ := step_of_framesWellFormed htodo hs
    exact ⟨_, hstep, framesWellFormed_drive_present htodo hs o⟩

/-- The decoder rejects exactly the ill-formed encodings (R62, R67). -/
theorem decode_error_iff {e : Encoding} : (∃ reject, decode e = .error reject) ↔ e.wellFormed = false := by
  rw [← Bool.not_eq_true, ← decoderAcceptsExactlyWellFormed e]
  cases decode e <;> simp

theorem step_of_malformedFrame {s : State} {bs r : List Byte} {rest : List Presentation}
    (h : s.todo = ⟨.frame bs, r⟩ :: rest) (hbs : (Encoding.frame bs).wellFormed = false) :
    step s = .fault .malformedFrame := by
  obtain ⟨reject, hd⟩ := decode_error_iff.2 hbs
  exact (step_present h).trans (operate_rejected hd _)

/-- A step answers a next state unless what is presented is a byte list that is no command frame. -/
theorem step_next_or_malformedFrame (s : State) :
    (∃ t, step s = .next t) ∨
      ∃ bs r rest, s.todo = ⟨.frame bs, r⟩ :: rest ∧ (Encoding.frame bs).wellFormed = false := by
  obtain ⟨-, hstep⟩ | ⟨⟨e, r⟩, rest, htodo, ⟨_, -, hstep⟩ | ⟨_, _, -, -, hstep⟩ | ⟨reject, bs, hd, rfl, -⟩⟩ :=
    step_cases s
  · exact .inl ⟨_, hstep⟩
  · exact .inl ⟨_, hstep⟩
  · exact .inl ⟨_, hstep⟩
  · exact .inr ⟨bs, r, rest, htodo, decode_error_iff.1 ⟨reject, hd⟩⟩

end Sys2Proof.Machine
end

section
open Sys2Proof Sys2Proof.Machine

/-- Settles O41, by induction on the number of steps: each answers, and leaves command frames only. -/
theorem runsOfOperationsNeverStop : Obligations.RunsOfOperationsNeverStop := by
  intro k
  induction k with
  | zero => exact fun s hs => ⟨s, rfl, hs⟩
  | succ k ih =>
    intro s hs
    obtain ⟨t, hstep, ht⟩ := step_keeps_framesWellFormed hs
    rw [run_next hstep]
    exact ih t ht

/-- Settles O40: a malformed frame faults, and a step that presents none answers, so that it neither faults nor is
refused. -/
theorem onlyMalformedFramesStop : Obligations.OnlyMalformedFramesStop := by
  intro s
  obtain ⟨_, hnext⟩ | ⟨bs, r, rest, htodo, hbs⟩ := step_next_or_malformedFrame s
  · exact ⟨⟨fun hfault => (by simp [hnext] at hfault), fun ⟨_, _, _, htodo, hbs⟩ => step_of_malformedFrame htodo hbs⟩,
      fun reason => by simp [hnext]⟩
  · have hfault := step_of_malformedFrame htodo hbs
    exact ⟨⟨fun _ => ⟨bs, r, rest, htodo, hbs⟩, fun _ => hfault⟩, fun reason => by simp [hfault]⟩

end

section
/-! The step of a decoded presentation, and the wire rows from the bytes on the wire (R21, R61, R67, R76). -/

namespace Sys2Proof.Machine

theorem step_decoded {s : State} {p : Presentation} {rest : List Presentation} {i : Instr} (h : s.todo = p :: rest)
    (hd : decode p.what = .ok i) : step s = exec i (present p rest s) :=
  (step_present h).trans (operate_decoded hd _)

theorem step_decodedFrame {s : State} {bs r : List Byte} {rest : List Presentation} {i : Instr}
    (h : s.todo = ⟨.frame bs, r⟩ :: rest) (hd : decode (.frame bs) = .ok i) :
    step s = .next { s with R := r, todo := rest, out := resultOf i r } :=
  (step_decoded h hd).trans (exec_eq i _)

/-- The direction bit is bit 5 (R61). -/
theorem ctrlDir_eq_ofBool (c : Byte) : ctrlDir c = BitVec.ofBool (c.getLsbD 5) := by
  ext i h
  obtain rfl : i = 0 := by omega
  simp [ctrlDir]

/-- The frame of R100 with the fields of a read control byte is that byte. -/
theorem readFrameOut_fields {c : Byte} (h : ctrlDir c = 0#1) :
    readFrameOut (ctrlHi c) (ctrlCode c) = { Out.undriven with st := some .ok, flen := some 1#2, F0 := some c } := by
  rw [readFrameOut, controlByte_of_ctrlDir h]

/-- The frame of R101 with the fields of a write control byte is that byte and the two payload bytes. -/
theorem writeFrameOut_fields {c : Byte} (h : ctrlDir c = 1#1) (lo hi : Byte) :
    writeFrameOut (ctrlHi c) (ctrlCode c) (le16 lo hi) =
      { Out.undriven with st := some .ok, flen := some 3#2, F0 := some c, F1 := some lo, F2 := some hi } := by
  rw [writeFrameOut, controlByte_of_ctrlDir h, lowByte_le16, highByte_le16]

end Sys2Proof.Machine
end

section
open Sys2Proof Sys2Proof.Machine

/-- Settles O20: the fields of a control byte pack to its number, and a control byte packs back from its fields. -/
theorem wireFramesHaveTheirRulesResult : Obligations.WireFramesHaveTheirRulesResult := by
  refine ⟨fun code hi s => ?_, fun code v hi s => ?_, fun s c r rest htodo hbit => ?_,
    fun s c b1 b2 r rest htodo hbit => ?_⟩
  · exact ⟨controlByte hi 0#1 code, toNat_controlByte hi 0#1 code, exec_eq _ s⟩
  · refine ⟨controlByte hi 1#1 code, lowByte v, highByte v, toNat_controlByte hi 1#1 code, ?_, exec_eq _ s⟩
    rw [toNat_lowByte, toNat_highByte]
    omega
  · have hdir : ctrlDir c = 0#1 := by rw [ctrlDir_eq_ofBool, hbit]; rfl
    have hd : decode (.frame [c]) = .ok (.wireRead (ctrlCode c) (ctrlHi c)) := if_pos hdir
    rw [step_decodedFrame htodo hd, ← readFrameOut_fields hdir]
    rfl
  · have hdir : ctrlDir c = 1#1 := by rw [ctrlDir_eq_ofBool, hbit]; rfl
    have hd : decode (.frame [c, b1, b2]) = .ok (.wireWrite16 (ctrlCode c) (le16 b1 b2) (ctrlHi c)) := if_pos hdir
    rw [step_decodedFrame htodo hd, ← writeFrameOut_fields hdir]
    rfl

end

section
/-! The step of an opcode-table row's bits (R76, log entry 13). -/

namespace Sys2Proof.Machine

/-- The encoding of a table row's bits decodes to what the table decoder reads from them. -/
theorem decode_of_decodeTableWord {nbits w : Nat} {i : Instr} (h : decodeTableWord nbits w = some i) :
    decode (tableEncoding nbits w) = .ok i := by
  unfold decodeTableWord at h
  cases hd : decode (tableEncoding nbits w) with
  | ok j => simpa [hd, Except.toOption] using h
  | error reject => simp [hd, Except.toOption] at h

/-- The bits of a wire row stand for a command frame (log entry 13). -/
theorem tableEncoding_eight (w : Nat) : ∃ bs, tableEncoding 8 w = .frame bs := by
  simp only [tableEncoding, if_neg (show ¬ 8 = 32 by decide)]
  split_ifs <;> exact ⟨_, rfl⟩

/-- A table row's bits, put first, are presented with the reply that stands on the reply port (log entry 13). -/
theorem step_withFetchWord {nbits w : Nat} {i : Instr} (h : decodeTableWord nbits w = some i) (s : State) :
    step (s.withFetchWord nbits w) = exec i (present ⟨tableEncoding nbits w, s.R⟩ s.todo s) := by
  have hpresent := present_todo_irrelevant ⟨tableEncoding nbits w, s.R⟩ s.todo (s.withFetchWord nbits w).todo s
  exact (step_decoded rfl (decode_of_decodeTableWord h)).trans (congrArg (exec i) hpresent)

end Sys2Proof.Machine
end

section
open Sys2Proof Sys2Proof.Machine

/-- Settles O8: a request word and a command frame each come to the ports as the statement says. -/
theorem stepRunsTheDecodedInstruction : Obligations.StepRunsTheDecodedInstruction := by
  intro s e r rest i htodo hd
  rw [step_decoded htodo hd]
  cases e with
  | word w => rfl
  | frame bs => rfl

/-- Settles O9: a 32-bit row's bits are a request word, an 8-bit row's a command frame, and presenting them with the
reply that stands on the port changes `W` at most. -/
theorem tableWordRunsFirst : Obligations.TableWordRunsFirst := by
  refine ⟨fun s w i h => step_withFetchWord h s, fun s w i h => ?_⟩
  obtain ⟨bs, hbs⟩ := tableEncoding_eight w
  rw [step_withFetchWord h, hbs]
  rfl

/-- Settles O10: the idle step. -/
theorem nothingPresentedChangesNothing : Obligations.NothingPresentedChangesNothing :=
  fun _ => step_idle

/-- Settles O11: reset's fields as the model gives them. -/
theorem resetLeavesNothingDriven : Obligations.ResetLeavesNothingDriven :=
  ⟨reset_out, rfl, rfl, reset_todo⟩

end

section
/-! The bundle after reset (R240, log entry 5). -/

namespace Sys2Proof.Machine

theorem undriven_consistent : Out.undriven.Consistent := by
  constructor <;> simp [Out.undriven]

end Sys2Proof.Machine
end

section
open Sys2Proof Sys2Proof.Machine

/-- Settles O44: reset drives nothing, and a bundle on which nothing is driven is consistent. -/
theorem resetBundleIsConsistent : Obligations.ResetBundleIsConsistent :=
  undriven_consistent

end
